-- ==== Sys2Proof/Word.lean ====
section
/-!
DEFINITION. The plain word types: bytes, byte strings, variable names, and the 4-bit group a cell's four pins or four outputs
form (00_scope.md R8, R11: bit d belongs to the direction with code d).
-/

namespace Sys2Proof

/-- One byte of a byte string (R10). -/
abbrev Byte := BitVec 8

/-- A byte string: a received frame, an upload, a bitstream (R10). -/
abbrev Bytes := List Byte

/-- A variable name, compared as an exact byte string (20_memory.md R63). -/
abbrev VarName := List Byte

/-- One 16-bit truth table (30_encoding.md R91). -/
abbrev Table := BitVec 16

/-- Four bits in the direction order N, E, S, W: bit d is the bit of the direction with code d (R11). -/
abbrev Nibble := BitVec 4

end Sys2Proof
end

