-- ==== Sys2Proof/Syntax.lean ====
section
/-!
DEFINITION. The syntax of the block: directions and coordinates, the Program contract as an abstract value, launch parameters,
the parsed forms of control, seam and bitstream messages, the error names, and `Instr`, one constructor per row of
spec/opcode_table.json.
-/

namespace Sys2Proof

/-- A direction, naming a pin, an output, a tile edge or a neighbour (00_scope.md R11). -/
inductive Dir where
  | north | east | south | west
  deriving DecidableEq, Repr

/-- One value per direction: a cell's four tables, a cell's four selectors, the state of a tile's four edges. -/
structure PerDir (α : Type) where
  n : α
  e : α
  s : α
  w : α
  deriving DecidableEq, Repr

/-- The entry of direction `d`. -/
def PerDir.get {α : Type} (q : PerDir α) (d : Dir) : α :=
  match d with
  | .north => q.n
  | .east => q.e
  | .south => q.s
  | .west => q.w

/-- `q` with the entry of direction `d` replaced. -/
def PerDir.set {α : Type} (q : PerDir α) (d : Dir) (v : α) : PerDir α :=
  match d with
  | .north => { q with n := v }
  | .east => { q with e := v }
  | .south => { q with s := v }
  | .west => { q with w := v }

/-- The same entry in every direction. -/
def PerDir.all {α : Type} (v : α) : PerDir α := ⟨v, v, v, v⟩

/-- A grid coordinate, an integer pair in global coordinates (20_memory.md R61). -/
structure Coord where
  x : Int
  y : Int
  deriving DecidableEq, Repr

/-- A pin's source selector after resolution at load (10_state.md R24). -/
inductive Source where
  | unwired
  | const (v : Bool)
  | input (name : VarName) (bit : Nat)
  | cell (c : Coord) (out : Dir)
  deriving DecidableEq, Repr

/-- One tap of an output variable: the coordinate and direction a bit is read from (R26). -/
structure Tap where
  c : Coord
  d : Dir
  deriving DecidableEq, Repr

/-- A source object as a Program writes it, before the launch checks (30_encoding.md R96, R97). -/
inductive RawSource where
  /-- `null` or an absent entry -/
  | null
  | const (value : Int)
  | input (name : VarName) (bit : Nat)
  | cell (x y out : Int)
  /-- any object that is none of the three forms of R97 -/
  | other
  deriving DecidableEq, Repr

/-- A cell record (R96). `inputs = none` is the absent key; `legacyOp` says that the record has an `op` key. -/
structure CellRecord where
  x : Int
  y : Int
  outputs : List Int
  inputs : Option (List RawSource)
  legacyOp : Bool
  deriving DecidableEq, Repr

/-- An output tap as a Program writes it: the triple `[x, y, dir]` (R99). -/
structure RawTap where
  x : Int
  y : Int
  dir : Int
  deriving DecidableEq, Repr

/-- The Program contract, top level (R95). Of `input_bits[n]` only the length is read (R98). -/
structure Program where
  width : Int
  height : Int
  latency : Nat
  cells : List CellRecord
  inputBits : List (VarName × Nat)
  outputBits : List (VarName × List RawTap)
  deriving DecidableEq, Repr

/-- What may lift a seam stall besides a valid frame (00_scope.md R7). -/
inductive SeamPolicy where
  | stall
  | holdLastGood
  deriving DecidableEq, Repr

/-- The launch parameters other than PROGRAM (00_scope.md R7, 10_state.md R21). -/
structure Params where
  gridW : Nat
  gridH : Nat
  tileW : Nat
  tileH : Nat
  originX : Nat
  originY : Nat
  maxUpload : Nat
  features : BitVec 32
  policy : SeamPolicy
  deriving DecidableEq, Repr

/-- One entry of a TLV list (30_encoding.md R113). -/
structure TlvEntry where
  name : VarName
  value : BitVec 64
  deriving DecidableEq, Repr

/-- One lane entry of a seam frame; value bits 7..4 are ignored on read (R131). -/
structure Lane where
  lane : BitVec 16
  value : Nibble
  deriving DecidableEq, Repr

/-- The fields of a seam frame (R130). The reserved byte is ignored on read. -/
structure SeamFrame where
  edge : Byte
  phase : Byte
  epoch : BitVec 32
  lanes : List Lane
  deriving DecidableEq, Repr

/-- The fields of a version-1 bitstream header (R101). -/
structure BitstreamHeader where
  width : BitVec 16
  height : BitVec 16
  order : Byte
  flags : Byte
  payloadBits : BitVec 32
  payloadCrc : BitVec 32
  reserved : BitVec 16
  deriving DecidableEq, Repr

/-- The error names of 60_exceptions.md R302. -/
inductive ErrorCode where
  | unknownType | malformedPayload | badVersion | noSession | unexpectedType
  | chunkOutOfRange | uploadTooLarge | replyTooLarge
  | badDimension | dimensionMismatch
  | badMagic | badBitstreamVersion | badHeaderSize | crcMismatch | payloadLengthMismatch
  | badOrder | incompleteUpload
  | undeclaredName | coordOutOfBounds | nonAdjacentSource | bitIndexOutOfRange | widthOutOfRange
  | duplicateCell | badSource | legacyOpcodeCell | outputNotInRegion | badName | badCellRecord
  | frameCorrupt | epochMismatch | phaseMismatch | duplicate | missing | substituted
  | linkNotAtStart | badEdge | alreadyLinked | notLinked
  deriving DecidableEq, Repr

/-- A frame the block sends on its control port (43_host_commands.md R263). The text of an ERROR is any value (R126): the
message records only the number `textId` of the free text it carries (log 4). -/
inductive HostMsg where
  | hello (seq width height : BitVec 16) (protoVersion : Byte) (features : BitVec 32)
  | outputs (seq : BitVec 16) (entries : List TlvEntry)
  | linkAck (seq : BitVec 16) (edge linked : Byte)
  | error (seq : BitVec 16) (code : ErrorCode) (textId : Nat)
  deriving DecidableEq, Repr

/-- The instructions of the block: the control messages it takes from its host, the seam frame, the bitstream, and the
operations it performs on itself (00_scope.md R2). One constructor per row of spec/opcode_table.json. -/
inductive Instr where
  -- control frames, as received on the control port (R127)
  | hello (seq width height : BitVec 16) (protoVersion : Byte) (features : BitVec 32)
  | loadChunk (seq : BitVec 16) (sessionId total offset : BitVec 32) (chunk : Bytes)
  | apply (seq : BitVec 16)
  | step (seq : BitVec 16) (ticks : BitVec 32)
  | setInputs (seq : BitVec 16) (entries : List TlvEntry)
  | getOutputs (seq : BitVec 16) (sel : List TlvEntry)
  | outputs (seq : BitVec 16) (payload : Bytes)
  | quit (seq : BitVec 16)
  | shutdown (seq : BitVec 16)
  | link (seq : BitVec 16) (edge : Byte)
  | unlink (seq : BitVec 16) (edge : Byte)
  | linkAck (seq : BitVec 16) (payload : Bytes)
  | error (seq : BitVec 16) (payload : Bytes)
  | unknownType (seq : BitVec 16) (type : Byte) (payload : Bytes)
  -- the two other encoded forms
  | seamFrame (port : Dir) (frame : SeamFrame)
  | bitstreamHeader (seq : BitVec 16) (header : BitstreamHeader) (payload : Bytes)
  -- internal operations, which have no encoding
  | evalLut (table : Table) (idx : Nibble)
  | resolve (src : Source)
  | index (c : Coord)
  | evalCell (c : Coord)
  | tick
  | cycle
  | emitFrame (e : Dir) (f : Nat)
  | resend (e : Dir) (epoch : BitVec 32) (phase : Byte)
  | seamReceive (e : Dir) (frame : Bytes)
  | stall
  | seamRead (c : Coord) (out : Dir)
  | substituteHeld (e : Dir)
  | controlStep
  | commit (tables : List (PerDir Table))
  | reset (params : Params) (program : Program)
  deriving DecidableEq, Repr

end Sys2Proof
end

