-- ==== Sys2Proof/Config.lean ====
section
/-!
DEFINITION. What is fixed for every launch, the launch parameters `State.reset` takes, and the one free value of the spec: the
text of an ERROR frame.
-/

namespace Sys2Proof.Config

/-- PROTO_VERSION (00_scope.md R7). -/
def protoVersion : Byte := 1

/-- The magic of a control frame, `BGCF` (30_encoding.md R110). -/
def controlMagic : Bytes := [0x42, 0x47, 0x43, 0x46]

/-- The magic of a seam frame, `BGSF` (R130). -/
def seamMagic : Bytes := [0x42, 0x47, 0x53, 0x46]

/-- The magic of a bitstream header, `BGBS` (R101). -/
def bitstreamMagic : Bytes := [0x42, 0x47, 0x42, 0x53]

/-- MAX_VAR_WIDTH: most bits in one named variable (R7). -/
def maxVarWidth : Nat := 64

/-- Largest grid width or height (R7, decision D37). -/
def maxDimension : Nat := 65534

/-- Largest number of cells of one tile (R7, decision D49). -/
def maxTileCells : Nat := 2 ^ 26 - 4

/-- Largest payload of a control frame: the `length` field is a u16 (R110). -/
def maxPayload : Nat := 65535

/-- The parameters of `State.reset` (DESIGN CHOICE, log 1; unsafe): R7 leaves geometry and MAX_UPLOAD_BYTES to the launch, and
every other launch is reached by RESET. FEATURES and SEAM_POLICY are the values R7 gives. -/
def resetParams : Params where
  gridW := 2
  gridH := 2
  tileW := 2
  tileH := 2
  originX := 0
  originY := 0
  maxUpload := 1048576
  features := 1
  policy := .stall

/-- The Program of `State.reset`: no cells, no variables (70_reset_and_hazards.md R342 calls it legal; log 1). -/
def resetProgram : Program where
  width := 2
  height := 2
  latency := 0
  cells := []
  inputBits := []
  outputBits := []

/-- FREE VALUE: how many characters the `k`-th ERROR text draws (30_encoding.md R126: "its content is not specified"; log 4). -/
opaque errorTextLength : Nat → Fin 65534

/-- FREE VALUE: the `j`-th character of the `k`-th ERROR text (R126; log 4). -/
opaque errorTextChar : Nat → Nat → Char

end Sys2Proof.Config
end

