-- ==== Sys2Proof/Decode.lean ====
section
/-!
DEFINITION. Byte order, CRC-32, the decoders of the three encoded forms, and after them the encoders, written from the same
tables of 30_encoding.md. The decoder is total on any bytes and rejects by name.
-/

namespace Sys2Proof

/-! ### Directions as codes (00_scope.md R11) -/

/-- The 2-bit code of a direction. -/
def Dir.code : Dir → Nat
  | .north => 0
  | .east => 1
  | .south => 2
  | .west => 3

/-- The direction with a code; values 4 and above are not directions (30_encoding.md R93). -/
def Dir.ofCode : Nat → Option Dir
  | 0 => some .north
  | 1 => some .east
  | 2 => some .south
  | 3 => some .west
  | _ => none

/-- The opposite direction, `(d + 2) mod 4`. -/
def Dir.opp : Dir → Dir
  | .north => .south
  | .east => .west
  | .south => .north
  | .west => .east

/-! ### Byte order (R10, 20_memory.md R64, R67) -/

/-- The little-endian value of a whole byte string. -/
def leValue : Bytes → Nat
  | [] => 0
  | b :: bs => b.toNat + 256 * leValue bs

/-- `MemRead(buf, off, n)` (R10); used only where `off + n ≤ len(buf)`. -/
def memRead (buf : Bytes) (off n : Nat) : Nat := leValue ((buf.drop off).take n)

/-- `n` bytes holding `v`, least significant first. -/
def leBytes : Nat → Nat → Bytes
  | 0, _ => []
  | n + 1, v => BitVec.ofNat 8 v :: leBytes n (v / 256)

/-- `MemWrite(buf, off, n, v)` (R10). -/
def memWrite (buf : Bytes) (off n v : Nat) : Bytes :=
  buf.take off ++ leBytes n v ++ buf.drop (off + n)

/-! ### CRC-32 (30_encoding.md R104) -/

/-- One bit of the reflected division. -/
def crcBit (c : BitVec 32) : BitVec 32 :=
  if c.getLsbD 0 then (c >>> 1) ^^^ 0xEDB88320#32 else c >>> 1

/-- One byte. -/
def crcByte (c : BitVec 32) (b : Byte) : BitVec 32 :=
  crcBit (crcBit (crcBit (crcBit (crcBit (crcBit (crcBit (crcBit (c ^^^ b.setWidth 32))))))))

/-- The IEEE CRC-32 of a byte string. -/
def crc32 (bs : Bytes) : BitVec 32 := bs.foldl crcByte 0xFFFFFFFF#32 ^^^ 0xFFFFFFFF#32

/-! ### Control frames (R110 to R128) -/

/-- The control frame of a version, type, sequence number and payload (R110). -/
def controlFrame (version type : Byte) (seq : BitVec 16) (payload : Bytes) : Bytes :=
  let covered := [version, type, 0] ++ leBytes 2 seq.toNat ++ leBytes 2 payload.length
  Config.controlMagic ++ covered ++ leBytes 4 (crc32 (covered ++ payload)).toNat ++ payload

/-- FRAMED (43_host_commands.md R241). -/
def framed (frame : Bytes) : Bool :=
  decide (15 ≤ frame.length)
    && decide (frame.take 4 = Config.controlMagic)
    && decide (frame.length = 15 + memRead frame 9 2)
    && decide (memRead frame 11 4 = (crc32 ((frame.drop 4).take 7 ++ frame.drop 15)).toNat)

/-- The version byte of a control frame (R110). -/
def frameVersion (frame : Bytes) : Byte := frame.getD 4 0

/-- The type byte of a control frame (R110). -/
def frameType (frame : Bytes) : Byte := frame.getD 5 0

/-- The sequence number of a control frame (R110). -/
def frameSeq (frame : Bytes) : BitVec 16 := BitVec.ofNat 16 (memRead frame 7 2)

/-- The payload of a control frame (R110). -/
def framePayload (frame : Bytes) : Bytes := frame.drop 15

/-- The entries of a TLV list (R113); `fuel` bounds the number of entries. -/
def decodeTlvFuel : Nat → Bytes → Option (List TlvEntry)
  | _, [] => some []
  | 0, _ :: _ => none
  | fuel + 1, len :: rest =>
    if len = 0 then none
    else if rest.length < len.toNat + 8 then none
    else
      (decodeTlvFuel fuel (rest.drop (len.toNat + 8))).map fun es =>
        ⟨rest.take len.toNat, BitVec.ofNat 64 (memRead rest len.toNat 8)⟩ :: es

/-- A payload as a TLV list, none where it is malformed (R113). -/
def decodeTlv (payload : Bytes) : Option (List TlvEntry) := decodeTlvFuel payload.length payload

/-- One TLV entry (R113). -/
def encodeTlvEntry (t : TlvEntry) : Bytes :=
  BitVec.ofNat 8 t.name.length :: (t.name ++ leBytes 8 t.value.toNat)

/-- A TLV list (R113). -/
def encodeTlv (ts : List TlvEntry) : Bytes := ts.flatMap encodeTlvEntry

/-- Why a decoder rejects. -/
inductive DecodeError where
  /-- not FRAMED: bad magic, size or CRC (R241) -/
  | notFramed
  /-- a FRAMED frame whose version is not 1 (R242) -/
  | badVersion (seq : BitVec 16)
  /-- a FRAMED frame of a known type whose payload is not WELLFORMED (R245) -/
  | malformedPayload (seq : BitVec 16) (type : Byte)
  /-- bytes that are no seam frame: size, magic, version or CRC (42_seam_barrier.md R211) -/
  | seamFrameCorrupt
  /-- bytes that are no version-1 bitstream header (R101) -/
  | notBitstreamHeader
  deriving DecidableEq, Repr

/-- The answer of a decoder. -/
inductive Decoded where
  | instr (i : Instr)
  | rejected (why : DecodeError)
  deriving DecidableEq, Repr

/-- The instruction a decoder answered, none where it rejected. -/
def Decoded.toOption : Decoded → Option Instr
  | .instr i => some i
  | .rejected _ => none

/-- WELLFORMED(type, payload) and the operands of each type (R114 to R126, R243, R245). The block-to-host types are
answered before their payload is looked at (R241), so their payload stays raw. -/
def decodePayload (seq : BitVec 16) (type : Byte) (p : Bytes) : Decoded :=
  let malformed := Decoded.rejected (.malformedPayload seq type)
  match type.toNat with
  | 0x01 =>
    if p.length = 9 then
      .instr (.hello seq (BitVec.ofNat 16 (memRead p 0 2)) (BitVec.ofNat 16 (memRead p 2 2))
        (BitVec.ofNat 8 (memRead p 4 1)) (BitVec.ofNat 32 (memRead p 5 4)))
    else malformed
  | 0x02 =>
    if 16 ≤ p.length ∧ memRead p 12 4 = p.length - 16 then
      .instr (.loadChunk seq (BitVec.ofNat 32 (memRead p 0 4)) (BitVec.ofNat 32 (memRead p 4 4))
        (BitVec.ofNat 32 (memRead p 8 4)) (p.drop 16))
    else malformed
  | 0x03 => if p.length = 0 then .instr (.apply seq) else malformed
  | 0x04 => if p.length = 4 then .instr (.step seq (BitVec.ofNat 32 (memRead p 0 4))) else malformed
  | 0x05 =>
    match decodeTlv p with
    | some (t :: ts) => .instr (.setInputs seq (t :: ts))
    | _ => malformed
  | 0x06 =>
    match decodeTlv p with
    | some ts => .instr (.getOutputs seq ts)
    | none => malformed
  | 0x07 => .instr (.outputs seq p)
  | 0x08 => if p.length = 0 then .instr (.quit seq) else malformed
  | 0x09 => if p.length = 0 then .instr (.shutdown seq) else malformed
  | 0x0A => if p.length = 1 then .instr (.link seq (p.getD 0 0)) else malformed
  | 0x0B => if p.length = 1 then .instr (.unlink seq (p.getD 0 0)) else malformed
  | 0x0C => .instr (.linkAck seq p)
  | 0x7F => .instr (.error seq p)
  | _ => .instr (.unknownType seq type p)

/-- The decoder of the control port: framing, version, type and payload shape in the order of R241. -/
def decodeControl (frame : Bytes) : Decoded :=
  if framed frame then
    if frameVersion frame = Config.protoVersion then
      decodePayload (frameSeq frame) (frameType frame) (framePayload frame)
    else .rejected (.badVersion (frameSeq frame))
  else .rejected .notFramed

/-! ### Seam frames (R130, R131) -/

/-- The bytes a seam frame's CRC covers: 4 .. 13 + 3n. -/
def seamBody (f : SeamFrame) : Bytes :=
  [1, f.edge, f.phase, 0] ++ leBytes 4 f.epoch.toNat ++ leBytes 2 f.lanes.length
    ++ f.lanes.flatMap fun l => leBytes 2 l.lane.toNat ++ [l.value.setWidth 8]

/-- A seam frame's bytes (R130). -/
def encodeSeam (f : SeamFrame) : Bytes :=
  Config.seamMagic ++ seamBody f ++ leBytes 4 (crc32 (seamBody f)).toNat

/-- `n` lane entries from the front of a byte string (R131). -/
def decodeLanes : Nat → Bytes → List Lane
  | 0, _ => []
  | n + 1, bs => ⟨BitVec.ofNat 16 (memRead bs 0 2), (bs.getD 2 0).setWidth 4⟩ :: decodeLanes n (bs.drop 3)

/-- The decoder of the seam port: the checks of 42_seam_barrier.md R211 that need no tile (size, magic, version, CRC). -/
def decodeSeam (frame : Bytes) : Option SeamFrame :=
  let n := memRead frame 12 2
  if 18 ≤ frame.length ∧ frame.take 4 = Config.seamMagic ∧ frame.length = 18 + 3 * n
      ∧ memRead frame (14 + 3 * n) 4 = (crc32 ((frame.drop 4).take (10 + 3 * n))).toNat
      ∧ memRead frame 4 1 = 1 then
    some ⟨frame.getD 5 0, frame.getD 6 0, BitVec.ofNat 32 (memRead frame 8 4), decodeLanes n (frame.drop 14)⟩
  else none

/-! ### Bitstreams (R100 to R103, R105) -/

/-- A headered bitstream (R101). -/
def encodeBitstream (h : BitstreamHeader) (payload : Bytes) : Bytes :=
  Config.bitstreamMagic ++ leBytes 2 1 ++ leBytes 2 24 ++ leBytes 2 h.width.toNat ++ leBytes 2 h.height.toNat
    ++ [h.order, h.flags] ++ leBytes 4 h.payloadBits.toNat ++ leBytes 4 h.payloadCrc.toNat
    ++ leBytes 2 h.reserved.toNat ++ payload

/-- The fields of a bitstream header at their offsets (R101). -/
def headerFields (b : Bytes) : BitstreamHeader where
  width := BitVec.ofNat 16 (memRead b 8 2)
  height := BitVec.ofNat 16 (memRead b 10 2)
  order := BitVec.ofNat 8 (memRead b 12 1)
  flags := BitVec.ofNat 8 (memRead b 13 1)
  payloadBits := BitVec.ofNat 32 (memRead b 14 4)
  payloadCrc := BitVec.ofNat 32 (memRead b 18 4)
  reserved := BitVec.ofNat 16 (memRead b 22 2)

/-- The decoder of the bitstream row: a version-1, 24-byte header and what follows it (R101). The checks of R250, and the
headerless form, are APPLY's. -/
def decodeBitstream (b : Bytes) : Option (BitstreamHeader × Bytes) :=
  if 24 ≤ b.length ∧ b.take 4 = Config.bitstreamMagic ∧ memRead b 4 2 = 1 ∧ memRead b 6 2 = 24 then
    some (headerFields b, b.drop 24)
  else none

/-- Payload bit `k` (20_memory.md R66); a bit outside the payload is never asked for by a checked bitstream. -/
def payloadBit (payload : Bytes) (lsbFirst : Bool) (k : Nat) : Bool :=
  (payload.getD (k / 8) 0).getLsbD (if lsbFirst then k % 8 else 7 - k % 8)

/-- The 16-bit table whose bit `i` is `f i`. -/
def tableOfBits (f : Nat → Bool) : Table :=
  BitVec.ofNat 16 ((List.range 16).foldl (fun acc i => acc + if f i then 2 ^ i else 0) 0)

/-- The table of output `d` of the cell with scan index `s` (R70, R251). -/
def payloadTable (payload : Bytes) (lsbFirst : Bool) (s : Nat) (d : Dir) : Table :=
  tableOfBits fun i => payloadBit payload lsbFirst (64 * s + 16 * d.code + i)

/-- The four tables of scan index `s`. -/
def payloadCell (payload : Bytes) (lsbFirst : Bool) (s : Nat) : PerDir Table where
  n := payloadTable payload lsbFirst s .north
  e := payloadTable payload lsbFirst s .east
  s := payloadTable payload lsbFirst s .south
  w := payloadTable payload lsbFirst s .west

/-- Scan position to region-relative coordinate in a `w × h` tile (R69); 0 row, 1 column, any other value snake. -/
def scan (order w h s : Nat) : Nat × Nat :=
  match order with
  | 0 => (s % w, s / w)
  | 1 => (s / h, s % h)
  | _ => (if s / w % 2 = 0 then s % w else w - 1 - s % w, s / w)

/-- The dense position (row-major) of scan index `s`. -/
def scanIndex (order w h s : Nat) : Nat :=
  (scan order w h s).2 * w + (scan order w h s).1

/-- DECODE_PAYLOAD (43_host_commands.md R251): the tables of a `w × h` tile, in row-major order of its cells. -/
def decodeTables (payload : Bytes) (order w h : Nat) (lsbFirst : Bool) : List (PerDir Table) :=
  (List.range (w * h)).foldl
    (fun ts s => ts.set (scanIndex order w h s) (payloadCell payload lsbFirst s))
    (List.replicate (w * h) (PerDir.all 0))

/-- The eight payload bytes of one cell, LSB-first (R102). -/
def cellBytes (t : PerDir Table) : Bytes :=
  leBytes 2 t.n.toNat ++ leBytes 2 t.e.toNat ++ leBytes 2 t.s.toNat ++ leBytes 2 t.w.toNat

/-- The LSB-first payload of a `w × h` tile's tables in a scan order (R102). -/
def packPayload (ts : List (PerDir Table)) (order w h : Nat) : Bytes :=
  (List.range (w * h)).flatMap fun s => cellBytes (ts.getD (scanIndex order w h s) (PerDir.all 0))

/-- PACK (R105). -/
def pack (ts : List (PerDir Table)) (order w h : Nat) : Bytes :=
  let payload := packPayload ts order w h
  encodeBitstream
    ⟨BitVec.ofNat 16 w, BitVec.ofNat 16 h, BitVec.ofNat 8 order, 1, BitVec.ofNat 32 (64 * w * h), crc32 payload, 0⟩ payload

/-! ### The decoder by port, and the encoder -/

/-- Where a byte string arrives: a decoder tells a format by its port (R90). A bitstream is reached by the APPLY with
sequence number `seq`. -/
inductive Port where
  | control
  | seam (at_ : Dir)
  | bitstream (seq : BitVec 16)
  deriving DecidableEq, Repr

/-- The decoder. -/
def decode (port : Port) (bytes : Bytes) : Decoded :=
  match port with
  | .control => decodeControl bytes
  | .seam d =>
    match decodeSeam bytes with
    | some f => .instr (.seamFrame d f)
    | none => .rejected .seamFrameCorrupt
  | .bitstream seq =>
    match decodeBitstream bytes with
    | some (h, p) => .instr (.bitstreamHeader seq h p)
    | none => .rejected .notBitstreamHeader

/-- An encoded instruction: its port and its bytes. -/
structure Encoded where
  port : Port
  bytes : Bytes
  deriving DecidableEq, Repr

/-- A version-1 control frame as an encoded instruction. -/
def encodedControl (type : Byte) (seq : BitVec 16) (payload : Bytes) : Option Encoded :=
  some ⟨.control, controlFrame Config.protoVersion type seq payload⟩

/-- The encoder; an internal operation has no encoding (opcode_table.json). -/
def encode : Instr → Option Encoded
  | .hello seq w h v f =>
    encodedControl 0x01 seq (leBytes 2 w.toNat ++ leBytes 2 h.toNat ++ leBytes 1 v.toNat ++ leBytes 4 f.toNat)
  | .loadChunk seq sid total off chunk =>
    encodedControl 0x02 seq (leBytes 4 sid.toNat ++ leBytes 4 total.toNat ++ leBytes 4 off.toNat
      ++ leBytes 4 chunk.length ++ chunk)
  | .apply seq => encodedControl 0x03 seq []
  | .step seq ticks => encodedControl 0x04 seq (leBytes 4 ticks.toNat)
  | .setInputs seq es => encodedControl 0x05 seq (encodeTlv es)
  | .getOutputs seq es => encodedControl 0x06 seq (encodeTlv es)
  | .outputs seq p => encodedControl 0x07 seq p
  | .quit seq => encodedControl 0x08 seq []
  | .shutdown seq => encodedControl 0x09 seq []
  | .link seq edge => encodedControl 0x0A seq [edge]
  | .unlink seq edge => encodedControl 0x0B seq [edge]
  | .linkAck seq p => encodedControl 0x0C seq p
  | .error seq p => encodedControl 0x7F seq p
  | .unknownType seq type p => encodedControl type seq p
  | .seamFrame d f => some ⟨.seam d, encodeSeam f⟩
  | .bitstreamHeader seq h p => some ⟨.bitstream seq, encodeBitstream h p⟩
  | .evalLut _ _ => none
  | .resolve _ => none
  | .index _ => none
  | .evalCell _ => none
  | .tick => none
  | .cycle => none
  | .emitFrame _ _ => none
  | .resend _ _ _ => none
  | .seamReceive _ _ => none
  | .stall => none
  | .seamRead _ _ => none
  | .substituteHeld _ => none
  | .controlStep => none
  | .commit _ => none
  | .reset _ _ => none

/-! ### Error codes and the frames the block sends -/

/-- The `code` of an ERROR (60_exceptions.md R302). -/
def ErrorCode.code : ErrorCode → BitVec 16
  | .unknownType => 0x0101
  | .malformedPayload => 0x0102
  | .badVersion => 0x0103
  | .noSession => 0x0104
  | .unexpectedType => 0x0105
  | .chunkOutOfRange => 0x0106
  | .uploadTooLarge => 0x0107
  | .replyTooLarge => 0x0108
  | .badDimension => 0x0201
  | .dimensionMismatch => 0x0202
  | .badMagic => 0x0301
  | .badBitstreamVersion => 0x0302
  | .badHeaderSize => 0x0303
  | .crcMismatch => 0x0304
  | .payloadLengthMismatch => 0x0305
  | .badOrder => 0x0306
  | .incompleteUpload => 0x0307
  | .undeclaredName => 0x0401
  | .coordOutOfBounds => 0x0402
  | .nonAdjacentSource => 0x0403
  | .bitIndexOutOfRange => 0x0404
  | .widthOutOfRange => 0x0405
  | .duplicateCell => 0x0406
  | .badSource => 0x0407
  | .legacyOpcodeCell => 0x0408
  | .outputNotInRegion => 0x0409
  | .badName => 0x040A
  | .badCellRecord => 0x040B
  | .frameCorrupt => 0x0501
  | .epochMismatch => 0x0502
  | .phaseMismatch => 0x0503
  | .duplicate => 0x0504
  | .missing => 0x0505
  | .substituted => 0x0506
  | .linkNotAtStart => 0x0601
  | .badEdge => 0x0602
  | .alreadyLinked => 0x0603
  | .notLinked => 0x0604

/-- The longest prefix of the characters whose UTF-8 form fits in `room` bytes. -/
def fitUtf8 : Nat → List Char → Bytes
  | _, [] => []
  | room, c :: cs =>
    let enc := (String.utf8EncodeChar c).map fun b => BitVec.ofNat 8 b.toNat
    if enc.length ≤ room then enc ++ fitUtf8 (room - enc.length) cs else []

/-- The `k`-th free ERROR text, UTF-8, at most `length − 2 ≤ 65533` bytes (30_encoding.md R126; log 4). -/
def errorText (k : Nat) : Bytes :=
  fitUtf8 (Config.maxPayload - 2)
    ((List.range (Config.errorTextLength k).val).map (Config.errorTextChar k))

/-- The bytes of a frame the block sends (43_host_commands.md R263). -/
def HostMsg.bytes : HostMsg → Bytes
  | .hello seq w h v f =>
    controlFrame Config.protoVersion 0x01 seq
      (leBytes 2 w.toNat ++ leBytes 2 h.toNat ++ leBytes 1 v.toNat ++ leBytes 4 f.toNat)
  | .outputs seq es => controlFrame Config.protoVersion 0x07 seq (encodeTlv es)
  | .linkAck seq edge linked => controlFrame Config.protoVersion 0x0C seq [edge, linked]
  | .error seq code k => controlFrame Config.protoVersion 0x7F seq (leBytes 2 code.code.toNat ++ errorText k)

/-! ### Table words (the host's `decodeTableWord` and `withFetchWord`; log 2) -/

/-- The payload of zeros of the shortest legal length of a type; a TLV list that may not be empty has one entry with a
one-byte name (R114 to R126). -/
def shortestPayload (type : Byte) : Bytes :=
  match type.toNat with
  | 0x01 => List.replicate 9 0
  | 0x02 => List.replicate 16 0
  | 0x04 => List.replicate 4 0
  | 0x05 => 1 :: List.replicate 9 0
  | 0x0A => [0]
  | 0x0B => [0]
  | _ => []

/-- The bytes a table word gives, `nbits` of them rounded up to whole bytes, the first word lowest. -/
def tableWordBytes (nbits w : Nat) : Bytes := leBytes ((nbits + 7) / 8) w

/-- `bs` padded with zero bytes to length `n`. -/
def padTo (n : Nat) (bs : Bytes) : Bytes := bs ++ List.replicate (n - bs.length) 0

/-- The whole message a table word stands for, with its port. Where the word ends before a message's `length` and CRC
fields, which are no operands, they are those a sender computes; operand bytes the word does not give are zero. A word
that gives the CRC field is taken as it is, padded with zeros. -/
def tableWordMessage (nbits w : Nat) : Option (Port × Bytes) :=
  let bs := tableWordBytes nbits w
  if bs.take 4 = Config.controlMagic then
    if bs.length < 15 then
      some (.control, controlFrame (frameVersion bs) (frameType bs) (frameSeq bs) (shortestPayload (frameType bs)))
    else some (.control, padTo (15 + memRead bs 9 2) bs)
  else if bs.take 4 = Config.seamMagic then
    match Dir.ofCode (bs.getD 5 0).toNat with
    | some d =>
      if bs.length < 18 then
        some (.seam d.opp, encodeSeam ⟨bs.getD 5 0, bs.getD 6 0, BitVec.ofNat 32 (memRead bs 8 4), []⟩)
      else some (.seam d.opp, padTo (18 + 3 * memRead bs 12 2) bs)
    | none => none
  else if bs.take 4 = Config.bitstreamMagic then some (.bitstream 0, padTo 24 bs)
  else none

/-- The instruction the decoder reads from a table word. -/
def decodeTableWord (nbits w : Nat) : Option Instr :=
  match tableWordMessage nbits w with
  | some (port, bytes) => (decode port bytes).toOption
  | none => none

end Sys2Proof
end

