-- ==== Sys2Proof/Machine/State.lean ====
section
/-!
DEFINITION. The state of one tile (10_state.md R20), the agent steps its environment can take, the reasons a step can stop, and
the state right after reset (70_reset_and_hazards.md R341). All of it is plain data.
-/

namespace Sys2Proof.Machine

/-- A kind of rejected seam frame, indexing the sticky counters (10_state.md R42). -/
inductive FaultKind where
  | frameCorrupt | epochMismatch | phaseMismatch | duplicate
  deriving DecidableEq, Repr

/-- `bstat.reason` (R41). -/
inductive Reason where
  | none | missing | frameCorrupt | epochMismatch | phaseMismatch | duplicate
  deriving DecidableEq, Repr

/-- The barrier status, the block's only status word (R41). `edgeMask` bit `e` is the edge with code `e`. -/
structure BarrierStatus where
  blocked : Bool
  edgeMask : Nibble
  awaited : Nat
  reason : Reason
  deriving DecidableEq, Repr

/-- The barrier status `{0, 0, 0, NONE}`. -/
def BarrierStatus.clear : BarrierStatus := ⟨false, 0, 0, .none⟩

/-- The sticky fault counters of one edge (R42). -/
structure FaultCounts where
  frameCorrupt : Nat
  epochMismatch : Nat
  phaseMismatch : Nat
  duplicate : Nat
  deriving DecidableEq, Repr

/-- The seam state of one edge (R37 to R40, R42, R43). `half0` and `half1` are the halves of parity 0 and 1, one 4-bit value
per lane position; the positions of the other parity stay 0. -/
structure EdgeState where
  linked : Bool
  half0 : List Nibble
  half1 : List Nibble
  rxNext : Nat
  tx : List (Nat × Bytes)
  substituted : Bool
  fcount : FaultCounts
  deriving DecidableEq, Repr

/-- The upload buffer (R35). `mem` lists the bytes written (`have` = 1), addresses strictly rising; an unlisted address has
`have` = 0 and byte 0x00 (log 20). -/
structure Upload where
  sid : BitVec 32
  total : BitVec 32
  mem : List Host.Cell
  deriving DecidableEq, Repr

/-- One atomic step of an agent (00_scope.md R6, 60_exceptions.md R313), with what its environment supplies (log 3). -/
inductive Event where
  /-- the host delivers a control frame to the arrival queue (43_host_commands.md R240) -/
  | deliver (frame : Bytes)
  /-- the control port takes a frame (R241) -/
  | control
  /-- a seam port receives the bytes the channel delivers (42_seam_barrier.md R210, R223) -/
  | seam (edge : Dir) (frame : Bytes)
  /-- the fabric ticks (41_tick.md R170) -/
  | tick
  /-- the fabric reports a blocked barrier (R219) -/
  | stall
  /-- the fault-handling policy substitutes held data (R221) -/
  | substitute (edge : Dir)
  /-- a retransmission request reaches a seam port (R209) -/
  | resend (edge : Dir) (epoch : BitVec 32) (phase : Byte)
  /-- a new launch (70_reset_and_hazards.md R340) -/
  | launch (params : Params) (program : Program)
  deriving DecidableEq, Repr

/-- The state of one tile. The fields from `hostOut` on are the model's own (log 3, 4, 6, 7). -/
structure State where
  /-- launch parameters, which no operation but RESET changes (R21) -/
  params : Params
  /-- LUT tables, one entry per cell of the region in row-major order (R22, R23) -/
  lut : List (PerDir Table)
  /-- pin source selectors, same order (R24) -/
  src : List (PerDir Source)
  /-- declared input variables and their widths (R25) -/
  inDecl : List (VarName × Nat)
  /-- declared output variables and their taps, tap `i` being bit `i` (R26) -/
  outDecl : List (VarName × List Tap)
  /-- the Mapper's settle time in cycles (R27) -/
  latency : Nat
  /-- committed outputs, bit `d` of an entry being output `d` (R28) -/
  cur : List Nibble
  /-- the next buffer (R29) -/
  nxt : List Nibble
  /-- input registers, in the order of `inDecl` (R30) -/
  ins : List (VarName × BitVec 64)
  /-- the tick count (R31) -/
  t : Nat
  /-- SHUTDOWN has been accepted (R33) -/
  halted : Bool
  /-- a host session is open (R34) -/
  session : Bool
  /-- the upload buffer (R35) -/
  upload : Option Upload
  /-- ticks of the current STEP still to run (R36) -/
  pending : Nat
  /-- the control arrival queue (R48) -/
  q : List Bytes
  /-- the seam state of the four edges -/
  edges : PerDir EdgeState
  /-- the barrier status (R41) -/
  bstat : BarrierStatus
  /-- control frames dropped without reply (R44) -/
  protoDrops : Nat
  /-- the tick whose stall has been reported (R45) -/
  reported : Option Nat
  /-- frames sent on the control port, oldest first -/
  hostOut : List HostMsg
  /-- frames sent on the seam ports, oldest first -/
  seamOut : List (Dir × Bytes)
  /-- the number of ERROR texts drawn so far -/
  freeCount : Nat
  /-- the value the last value-returning internal operation returned -/
  value : Nibble
  /-- the agent steps the scheduler and the environment take next -/
  agenda : List Event
  deriving DecidableEq, Repr

/-- Why a step stops with a fault. The spec has no traps (60_exceptions.md R300); these are operands for which it gives an
internal operation no meaning, and which no agent step of an admitted launch uses. All are safe (log 14, 16). -/
inductive Fault where
  /-- INDEX or EVAL_CELL of a coordinate that is no cell of the region (R142, R143; safe) -/
  | coordOutsideRegion
  /-- RESOLVE of a selector no admitted Program of this tile holds (R141, R145; safe) -/
  | sourceNotAdmitted
  /-- SEAM_READ of a coordinate that is no neighbour cell of an edge of this tile (R203, R220; safe) -/
  | notSeamCoordinate
  /-- COMMIT of a table list that has not one entry per cell of the region (R252; safe) -/
  | tablesNotOfRegion
  deriving DecidableEq, Repr

/-- Why a step is refused. -/
inductive Refusal where
  /-- an instruction of the table the model gives no meaning; no arm of `exec` uses it -/
  | notModelled (mnemonic : String)
  /-- RESET with a Program that fails a launch check: "refuse with that check's code; no tile exists" (R340; safe) -/
  | launchRefused (code : ErrorCode)
  /-- RESET with parameters outside the constraints of R7: no such launch exists (log 17; safe) -/
  | parametersOutOfRange
  deriving DecidableEq, Repr

/-- An edge at reset, with `lanes` lanes (R341). -/
def EdgeState.initial (lanes : Nat) : EdgeState where
  linked := false
  half0 := List.replicate lanes 0
  half1 := List.replicate lanes 0
  rxNext := 0
  tx := []
  substituted := false
  fcount := ⟨0, 0, 0, 0⟩

/-- The machine right after reset: every element at its value of R341, for the launch of log 1. Every other launch is
`Machine.launch`, which RESET runs. -/
def State.reset : State where
  params := Config.resetParams
  lut := List.replicate 4 (PerDir.all 0)
  src := List.replicate 4 (PerDir.all .unwired)
  inDecl := []
  outDecl := []
  latency := 0
  cur := List.replicate 4 0
  nxt := List.replicate 4 0
  ins := []
  t := 0
  halted := false
  session := false
  upload := none
  pending := 0
  q := []
  edges := PerDir.all (EdgeState.initial 2)
  bstat := BarrierStatus.clear
  protoDrops := 0
  reported := none
  hostOut := []
  seamOut := []
  freeCount := 0
  value := 0
  agenda := []

end Sys2Proof.Machine
end

