-- ==== Sys2Proof/Machine/Geometry.lean ====
section
/-!
DEFINITION. The grid: regions, adjacency, parity (00_scope.md R11, R12; 20_memory.md R61, R62), the dense position of a cell,
and the edges and lanes of a tile (42_seam_barrier.md R202, R203).
-/

namespace Sys2Proof

/-- `step(c, d)`: the coordinate one grid step away in direction `d` (R11). -/
def Coord.step (c : Coord) (d : Dir) : Coord :=
  match d with
  | .north => ⟨c.x, c.y - 1⟩
  | .east => ⟨c.x + 1, c.y⟩
  | .south => ⟨c.x, c.y + 1⟩
  | .west => ⟨c.x - 1, c.y⟩

/-- `parity(c) = (x + y) mod 2` (R12). -/
def Coord.parity (c : Coord) : Nat := ((c.x + c.y) % 2).toNat

/-- Grid-adjacency: `|dx| + |dy| = 1` (R62). -/
def Coord.adjacent (c c' : Coord) : Bool := decide ((c.x - c'.x).natAbs + (c.y - c'.y).natAbs = 1)

/-- The Manhattan distance of two coordinates (41_tick.md R177). -/
def Coord.dist (c c' : Coord) : Nat := (c.x - c'.x).natAbs + (c.y - c'.y).natAbs

namespace Machine

/-- `[0, GRID_W) × [0, GRID_H)` (R61). -/
def inGrid (p : Params) (c : Coord) : Bool :=
  decide (0 ≤ c.x ∧ c.x < p.gridW ∧ 0 ≤ c.y ∧ c.y < p.gridH)

/-- `Region` (00_scope.md R7). -/
def inRegion (p : Params) (c : Coord) : Bool :=
  decide ((p.originX : Int) ≤ c.x ∧ c.x < p.originX + p.tileW ∧ (p.originY : Int) ≤ c.y ∧ c.y < p.originY + p.tileH)

/-- The position of a cell of the region in the dense lists of `State`, row-major. -/
def cellIndex (p : Params) (c : Coord) : Nat :=
  (c.y - p.originY).toNat * p.tileW + (c.x - p.originX).toNat

/-- The coordinate at a position of the dense lists. -/
def coordAt (p : Params) (i : Nat) : Coord :=
  ⟨p.originX + (i % p.tileW : Nat), p.originY + (i / p.tileW : Nat)⟩

/-- The number of cells of the region. -/
def cellCount (p : Params) : Nat := p.tileW * p.tileH

/-- Every coordinate of the region, in row-major order. -/
def regionCoords (p : Params) : List Coord := (List.range (cellCount p)).map (coordAt p)

/-- Edge `e` has a neighbour: the row or column beyond it is inside the logical grid (R202). -/
def hasNeighbour (p : Params) (e : Dir) : Bool :=
  match e with
  | .north => decide (0 < p.originY)
  | .east => decide (p.originX + p.tileW < p.gridW)
  | .south => decide (p.originY + p.tileH < p.gridH)
  | .west => decide (0 < p.originX)

/-- `len(e)`, the number of lanes of edge `e` (R202). -/
def laneCount (p : Params) (e : Dir) : Nat :=
  match e with
  | .north => p.tileW
  | .east => p.tileH
  | .south => p.tileW
  | .west => p.tileH

/-- `ecell(e, k)`, the edge cell of lane `k` (R202). -/
def ecell (p : Params) (e : Dir) (k : Nat) : Coord :=
  match e with
  | .north => ⟨p.originX + k, p.originY⟩
  | .south => ⟨p.originX + k, p.originY + p.tileH - 1⟩
  | .west => ⟨p.originX, p.originY + k⟩
  | .east => ⟨p.originX + p.tileW - 1, p.originY + k⟩

/-- `ncell(e, k)`, the neighbour cell across the edge (R202). -/
def ncell (p : Params) (e : Dir) (k : Nat) : Coord := (ecell p e k).step e

/-- The edge and lane of a coordinate outside the region (R203), none where it is no neighbour cell of this tile. -/
def seamLane (p : Params) (c : Coord) : Option (Dir × Nat) :=
  let dx := c.x - p.originX
  let dy := c.y - p.originY
  if inGrid p c then
    if 0 ≤ dx ∧ dx < p.tileW then
      if dy = -1 then some (.north, dx.toNat)
      else if dy = p.tileH then some (.south, dx.toNat)
      else none
    else if 0 ≤ dy ∧ dy < p.tileH then
      if dx = -1 then some (.west, dy.toNat)
      else if dx = p.tileW then some (.east, dy.toNat)
      else none
    else none
  else none

/-- The lanes of edge `e` whose edge cell has parity `q`, in increasing order: a sender's half (R206, R207). -/
def sendLanes (p : Params) (e : Dir) (q : Nat) : List Nat :=
  (List.range (laneCount p e)).filter fun k => decide ((ecell p e k).parity = q)

/-- The lanes of edge `e` whose neighbour cell has parity `q`, in increasing order: a receiver's half (R206, R211). -/
def recvLanes (p : Params) (e : Dir) (q : Nat) : List Nat :=
  (List.range (laneCount p e)).filter fun k => decide ((ncell p e k).parity = q)

end Machine

end Sys2Proof
end

