-- ==== Sys2Proof/Machine/Ops.lean ====
section
/-!
DEFINITION. The named operations over the state: reads of tables, outputs, selectors and inputs, the seam state of an edge, the
upload buffer's cells, sending, and the report of an error (60_exceptions.md R310), the block's analogue of taking an exception.
There is no handler, so there is no return from one (R314).
-/

namespace Sys2Proof.Machine

/-! ### The fabric's state by coordinate (00_scope.md R9) -/

/-- The four committed outputs of a cell (10_state.md R28). -/
def State.curAt (s : State) (c : Coord) : Nibble := s.cur.getD (cellIndex s.params c) 0

/-- `cur[c][d]` (R28). -/
def State.outAt (s : State) (c : Coord) (d : Dir) : Bool := (s.curAt c).getLsbD d.code

/-- `nxt[c][*]` (R29). -/
def State.nxtAt (s : State) (c : Coord) : Nibble := s.nxt.getD (cellIndex s.params c) 0

/-- `lut[c][d]` (R23). -/
def State.lutAt (s : State) (c : Coord) (d : Dir) : Table :=
  (s.lut.getD (cellIndex s.params c) (PerDir.all 0)).get d

/-- `src[c][p]` (R24). -/
def State.srcAt (s : State) (c : Coord) (p : Dir) : Source :=
  (s.src.getD (cellIndex s.params c) (PerDir.all .unwired)).get p

/-- The first entry of a name in an association list. -/
def lookupName {α : Type} (n : VarName) : List (VarName × α) → Option α
  | [] => none
  | (m, v) :: rest => if m = n then some v else lookupName n rest

/-- `w_in(n)`, none where `n` is not declared (R25). -/
def State.inWidth (s : State) (n : VarName) : Option Nat := lookupName n s.inDecl

/-- The taps of output `n`, none where `n` is not declared (R26). -/
def State.outTaps (s : State) (n : VarName) : Option (List Tap) := lookupName n s.outDecl

/-- `in[n]` (R30); 0 for a name that is not declared, which no admitted source or command reads. -/
def State.inValue (s : State) (n : VarName) : BitVec 64 := (lookupName n s.ins).getD 0

/-- The association list with the value of name `n` replaced where it has one. -/
def updateName {α : Type} (n : VarName) (v : α) : List (VarName × α) → List (VarName × α)
  | [] => []
  | (m, w) :: rest => if m = n then (m, v) :: rest else (m, w) :: updateName n v rest

/-- `in[n] <- v mod 2^(w_in(n))` (43_host_commands.md R253); nothing for a name that is not declared. -/
def State.writeInput (s : State) (n : VarName) (v : BitVec 64) : State :=
  match s.inWidth n with
  | some w => { s with ins := updateName n (BitVec.ofNat 64 (v.toNat % 2 ^ w)) s.ins }
  | none => s

/-- `VAL(n)` of a list of taps: bit `i` is the committed output tap `i` names (R255). -/
def State.tapsValue (s : State) (taps : List Tap) : BitVec 64 :=
  BitVec.ofNat 64 (((List.range taps.length).map fun i =>
    match taps[i]? with
    | some tap => if s.outAt tap.c tap.d then 2 ^ i else 0
    | none => 0).sum)

/-! ### The seam state of an edge (R37 to R43) -/

/-- The seam state of edge `e`. -/
def State.edge (s : State) (e : Dir) : EdgeState := s.edges.get e

/-- The state with the seam state of edge `e` replaced. -/
def State.setEdge (s : State) (e : Dir) (es : EdgeState) : State := { s with edges := s.edges.set e es }

/-- `half[e][q]` as a list over lane positions (R38). -/
def EdgeState.halfList (es : EdgeState) (q : Nat) : List Nibble := if q = 0 then es.half0 else es.half1

/-- `half[e][q][k]` (R38). -/
def EdgeState.half (es : EdgeState) (q k : Nat) : Nibble := (es.halfList q).getD k 0

/-- `half[e][q][k] <- v` (R216). -/
def EdgeState.setHalf (es : EdgeState) (q k : Nat) (v : Nibble) : EdgeState :=
  if q = 0 then { es with half0 := es.half0.set k v } else { es with half1 := es.half1.set k v }

/-- Both halves of edge `e` set to 0 (R222, R252). -/
def EdgeState.clearHalves (es : EdgeState) : EdgeState :=
  { es with half0 := es.half0.map fun _ => 0, half1 := es.half1.map fun _ => 0 }

/-- `fcount[e][kind] <- fcount[e][kind] + 1` (R42, R217). -/
def FaultCounts.bump (fc : FaultCounts) (k : FaultKind) : FaultCounts :=
  match k with
  | .frameCorrupt => { fc with frameCorrupt := fc.frameCorrupt + 1 }
  | .epochMismatch => { fc with epochMismatch := fc.epochMismatch + 1 }
  | .phaseMismatch => { fc with phaseMismatch := fc.phaseMismatch + 1 }
  | .duplicate => { fc with duplicate := fc.duplicate + 1 }

/-- The error a fault kind reports (60_exceptions.md R302). -/
def FaultKind.errorCode : FaultKind → ErrorCode
  | .frameCorrupt => .frameCorrupt
  | .epochMismatch => .epochMismatch
  | .phaseMismatch => .phaseMismatch
  | .duplicate => .duplicate

/-- The barrier reason a fault kind leaves (R41, R217). -/
def FaultKind.reason : FaultKind → Reason
  | .frameCorrupt => .frameCorrupt
  | .epochMismatch => .epochMismatch
  | .phaseMismatch => .phaseMismatch
  | .duplicate => .duplicate

/-- The four edges in code order. -/
def allDirs : List Dir := [.north, .east, .south, .west]

/-! ### The upload buffer's cells (20_memory.md R60; log 20) -/

/-- The canonical form: addresses strictly rising. -/
def Memory.wf (m : List Host.Cell) : Bool := decide ((m.map Prod.fst).Pairwise (· < ·))

/-- What address `a` holds; `none` is `have[a]` = 0. -/
def Memory.read : List Host.Cell → Nat → Option Byte
  | [], _ => none
  | (b, v) :: rest, a => if b = a then some v else Memory.read rest a

/-- The list with the byte at `a` written. -/
def Memory.write : List Host.Cell → Nat → Byte → List Host.Cell
  | [], a, v => [(a, v)]
  | (b, w) :: rest, a, v =>
    if a < b then (a, v) :: (b, w) :: rest
    else if a = b then (a, v) :: rest
    else (b, w) :: Memory.write rest a v

/-- The list with a byte string written from address `off` on. -/
def Memory.writeBytes (m : List Host.Cell) (off : Nat) : Bytes → List Host.Cell
  | [] => m
  | v :: vs => Memory.writeBytes (Memory.write m off v) (off + 1) vs

/-- Whether every address below `n` has been written. -/
def Memory.full (m : List Host.Cell) : Nat → Bool
  | 0 => true
  | n + 1 => (Memory.read m n).isSome && Memory.full m n

/-- `upload.bytes` (10_state.md R35). -/
def Upload.bytes (u : Upload) : Bytes := (List.range u.total.toNat).map fun a => (Memory.read u.mem a).getD 0

/-- No `upload.have[i]` is 0 (43_host_commands.md R248). -/
def Upload.complete (u : Upload) : Bool := Memory.full u.mem u.total.toNat

/-! ### Sending, and the report of an error (60_exceptions.md R310) -/

/-- Send a frame to the host (43_host_commands.md R263). -/
def State.sendHost (s : State) (m : HostMsg) : State := { s with hostOut := s.hostOut ++ [m] }

/-- An ERROR frame with the given `seq`, drawing the next free text (R262; log 4). The reply to a command carries the
command's `seq`. -/
def State.sendError (s : State) (seq : BitVec 16) (code : ErrorCode) : State :=
  { s.sendHost (.error seq code s.freeCount) with freeCount := s.freeCount + 1 }

/-- An unsolicited ERROR: `seq = 0`, only while a session is open (R262, R310). -/
def State.report (s : State) (code : ErrorCode) : State := if s.session then s.sendError 0 code else s

/-- Send bytes on the seam port of edge `e`. -/
def State.sendSeam (s : State) (e : Dir) (frame : Bytes) : State := { s with seamOut := s.seamOut ++ [(e, frame)] }

/-! ### When the control port takes a command (43_host_commands.md R241, R244, R245; log 24) -/

/-- A frame the tile can take only between STEPs: no effect while it is halted or has ticks to run. -/
def State.betweenSteps (s : State) (run : State → State) : State :=
  if s.halted ∨ s.pending ≠ 0 then s else run s

/-- The session check (R244). -/
def State.inSession (s : State) (seq : BitVec 16) (run : State → State) : State :=
  if s.session then run s else s.sendError seq .noSession

/-- A command that needs a session and waits for the end of a STEP. -/
def State.command (s : State) (seq : BitVec 16) (run : State → State) : State :=
  s.betweenSteps fun s => s.inSession seq run

/-- QUIT or SHUTDOWN: taken while a STEP runs too, never by a halted tile (R245, R264). -/
def State.endingCommand (s : State) (seq : BitVec 16) (run : State → State) : State :=
  if s.halted then s else s.inSession seq run

end Sys2Proof.Machine
end

