-- ==== Sys2Proof/Machine/Flags.lean ====
section
/-!
DEFINITION. The block has no condition flags (10_state.md R32); its only status word is the barrier status. This file holds the
barrier condition and every computation of `bstat` (42_seam_barrier.md R216 to R219).
-/

namespace Sys2Proof.Machine

/-- `BARRIER_OK(t)`: every linked edge has accepted the frame of tick `t − 1` (R218). -/
def State.barrierOk (s : State) : Bool :=
  allDirs.all fun e => !(s.edge e).linked || decide (s.t ≤ (s.edge e).rxNext)

/-- Edge `e` is linked and its frame is missing (R219). -/
def State.edgeMissing (s : State) (e : Dir) : Bool :=
  (s.edge e).linked && decide ((s.edge e).rxNext < s.t)

/-- Four bits in direction order, `N | (E << 1) | (S << 2) | (W << 3)` (30_encoding.md R92). -/
def nibbleOf (f : Dir → Bool) : Nibble :=
  (BitVec.ofBool (f .north)).setWidth 4 ||| ((BitVec.ofBool (f .east)).setWidth 4 <<< 1)
    ||| ((BitVec.ofBool (f .south)).setWidth 4 <<< 2) ||| ((BitVec.ofBool (f .west)).setWidth 4 <<< 3)

/-- The barrier status of a tick that has just become blocked (R219). -/
def State.blockedStatus (s : State) : BarrierStatus := ⟨true, nibbleOf s.edgeMissing, s.t - 1, .missing⟩

/-- `bstat <- {0, 0, 0, NONE}` (R252, R257). -/
def State.clearBarrier (s : State) : State := { s with bstat := BarrierStatus.clear }

/-- After an accepted frame: a blocked status clears once the barrier holds (R216). Until then it keeps the mask STALL gave it, also
for an edge whose frame has since arrived (log 31). -/
def State.unblock (s : State) : State := if s.bstat.blocked && s.barrierOk then s.clearBarrier else s

/-- After a rejected frame on edge `e`: the reason of a blocked status that waits for `e` (R217). -/
def State.blame (s : State) (e : Dir) (k : FaultKind) : State :=
  if s.bstat.blocked && s.bstat.edgeMask.getLsbD e.code then
    { s with bstat := { s.bstat with reason := k.reason } }
  else s

end Sys2Proof.Machine
end

