-- ==== Sys2Proof/Machine/Operands.lean ====
section
/-!
DEFINITION. The operand forms of the fabric: the value of a pin by each form of its source selector, the seam read behind an
out-of-region producer, the LUT index, and the outputs of a cell (40_lut_eval.md R140 to R143; 42_seam_barrier.md R220). They
only read the state.
-/

namespace Sys2Proof.Machine

/-- EVAL_LUT: `(table >> idx) & 1` (R140). -/
def lutBit (table : Table) (idx : Nibble) : Bool := table.getLsbD idx.toNat

/-- SEAM_READ: output `out` of a neighbour cell, from the receive half of its parity (R220); none where the coordinate is no
neighbour cell of this tile. -/
def State.seamValue (s : State) (c : Coord) (out : Dir) : Option Bool :=
  match seamLane s.params c with
  | some (e, k) => some (((s.edge e).half c.parity k).getLsbD out.code)
  | none => none

/-- RESOLVE: the value of a pin (R141). It is total, since admission refuses every selector that could fail (R145); a seam
coordinate no admitted selector names reads 0 (log 15). -/
def State.resolve (s : State) (src : Source) : Bool :=
  match src with
  | .unwired => false
  | .const v => v
  | .input n b => (s.inValue n).getLsbD b
  | .cell c out => if inRegion s.params c then s.outAt c out else (s.seamValue c out).getD false

/-- INDEX: a cell's LUT index (R142). -/
def State.lutIndex (s : State) (c : Coord) : Nibble := nibbleOf fun p => s.resolve (s.srcAt c p)

/-- EVAL_CELL: a cell's four new output bits (R143). -/
def State.cellOutputs (s : State) (c : Coord) : Nibble := nibbleOf fun d => lutBit (s.lutAt c d) (s.lutIndex c)

/-- The selectors RESOLVE has a value for: the ones an admitted Program of this tile can hold (R146, R148, R203). -/
def State.sourceAdmitted (s : State) (src : Source) : Bool :=
  match src with
  | .unwired => true
  | .const _ => true
  | .input n b =>
    match s.inWidth n with
    | some w => decide (b < w)
    | none => false
  | .cell c _ => inRegion s.params c || (seamLane s.params c).isSome

/-- A one-bit value in the low bit of the returned-value field (log 7). -/
def bitValue (b : Bool) : Nibble := (BitVec.ofBool b).setWidth 4

end Sys2Proof.Machine
end

