-- ==== Sys2Proof/Machine/Lut.lean ====
section
/-!
DEFINITION. The LUT family: EVAL_LUT, RESOLVE, INDEX, EVAL_CELL (40_lut_eval.md R140 to R143), and the standard tables of
R154 to R157. An operation that only returns a value leaves it in `State.value` when it is run on its own (log 7).
-/

namespace Sys2Proof.Machine

/-- EVAL_LUT (R140). -/
def execEvalLut (table : Table) (idx : Nibble) (s : State) : Host.Outcome State Fault Refusal :=
  .next { s with value := bitValue (lutBit table idx) }

/-- RESOLVE (R141). -/
def execResolve (src : Source) (s : State) : Host.Outcome State Fault Refusal :=
  if s.sourceAdmitted src then .next { s with value := bitValue (s.resolve src) } else .fault .sourceNotAdmitted

/-- INDEX (R142). -/
def execIndex (c : Coord) (s : State) : Host.Outcome State Fault Refusal :=
  if inRegion s.params c then .next { s with value := s.lutIndex c } else .fault .coordOutsideRegion

/-- EVAL_CELL: writes `nxt[c][*]` only (R143). Run on its own it has no halted gate (log 30). -/
def execEvalCell (c : Coord) (s : State) : Host.Outcome State Fault Refusal :=
  if inRegion s.params c then .next { s with nxt := s.nxt.set (cellIndex s.params c) (s.cellOutputs c) }
  else .fault .coordOutsideRegion

/-- The table of a function of the index. -/
def tableOf (f : Nibble → Bool) : Table := tableOfBits fun i => f (BitVec.ofNat 4 i)

/-- `FWD(P)`, the ROUTE4 forwarding table (R154). -/
def fwd (p : Dir) : Table := tableOf fun idx => idx.getLsbD p.code

/-- The tables of the pseudo-cell `ROUTE4 P->D` (30_encoding.md R133). -/
def route4 (p d : Dir) : PerDir Table := (PerDir.all 0).set d (fwd p)

/-- The gate tables of R157 over pins N and E (and S): AND, OR, XOR, NOT N, sum, majority. -/
def gateAnd : Table := tableOf fun i => i.getLsbD 0 && i.getLsbD 1
def gateOr : Table := tableOf fun i => i.getLsbD 0 || i.getLsbD 1
def gateXor : Table := tableOf fun i => i.getLsbD 0 ^^ i.getLsbD 1
def gateNotN : Table := tableOf fun i => !i.getLsbD 0
def gateSum : Table := tableOf fun i => i.getLsbD 0 ^^ i.getLsbD 1 ^^ i.getLsbD 2
def gateMajority : Table := tableOf fun i =>
  i.getLsbD 0 && i.getLsbD 1 || i.getLsbD 0 && i.getLsbD 2 || i.getLsbD 1 && i.getLsbD 2

end Sys2Proof.Machine
end

