-- ==== Sys2Proof/Machine/Seam.lean ====
section
/-!
DEFINITION. The seam family (42_seam_barrier.md): EMIT_FRAME, RESEND, SEAM_RECEIVE, the received SEAM_FRAME, STALL, SEAM_READ,
SUBSTITUTE_HELD.
-/

namespace Sys2Proof.Machine

/-! ### Sending (R205 to R209) -/

/-- LANEVAL: the four committed outputs of the edge cell of a lane (R205). -/
def State.laneValue (s : State) (e : Dir) (k : Nat) : Nibble := s.curAt (ecell s.params e k)

/-- The seam frame of tick `f` on edge `e`, from the committed outputs (R207, R208). -/
def State.frameOf (s : State) (e : Dir) (f : Nat) : SeamFrame where
  edge := BitVec.ofNat 8 e.code
  phase := BitVec.ofNat 8 (f % 2)
  epoch := BitVec.ofNat 32 (f / 2)
  lanes := (sendLanes s.params e (f % 2)).map fun k => ⟨BitVec.ofNat 16 k, s.laneValue e k⟩

/-- The last two entries of a list (R209). -/
def lastTwo {α : Type} (l : List α) : List α := l.drop (l.length - 2)

/-- EMIT_FRAME on a linked edge: send the frame of tick `f` and retain it (R207, R209). -/
def State.emitFrame (s : State) (e : Dir) (f : Nat) : State :=
  let bytes := encodeSeam (s.frameOf e f)
  (s.setEdge e { s.edge e with tx := lastTwo ((s.edge e).tx ++ [(f, bytes)]) }).sendSeam e bytes

/-- EMIT_FRAME where edge `e` is linked; nothing is emitted on another edge (R37, R207). -/
def State.emitIfLinked (s : State) (e : Dir) (f : Nat) : State :=
  if (s.edge e).linked then s.emitFrame e f else s

/-- EMIT_FRAME (R207). A halted tile sends nothing (43_host_commands.md R264). -/
def execEmitFrame (e : Dir) (f : Nat) (s : State) : Host.Outcome State Fault Refusal :=
  .next (if s.halted then s else s.emitIfLinked e f)

/-- A retained frame's epoch and phase fields are the requested ones (R209, 30_encoding.md R130). -/
def frameMatches (epoch : BitVec 32) (phase : Byte) (frame : Bytes) : Bool :=
  decide (memRead frame 8 4 = epoch.toNat) && decide (memRead frame 6 1 = phase.toNat)

/-- RESEND: send a retained frame again, byte for byte; it changes no state of the tile (R209). A halted tile sends
nothing (R264, log 27). -/
def execResend (e : Dir) (epoch : BitVec 32) (phase : Byte) (s : State) : Host.Outcome State Fault Refusal :=
  .next <|
    if s.halted then s
    else
      match (s.edge e).tx.find? fun r => frameMatches epoch phase r.2 with
      | some r => s.sendSeam e r.2
      | none => s

/-! ### Receiving (R210 to R217) -/

/-- CORRUPT(e, F) for a frame that parses: wrong edge, phase or lane set (R211). -/
def frameMisfits (p : Params) (e : Dir) (f : SeamFrame) : Bool :=
  decide (f.edge.toNat ≠ e.opp.code) || decide (1 < f.phase.toNat)
    || decide (f.lanes.map (fun l => l.lane.toNat) ≠ recvLanes p e f.phase.toNat)

/-- ACCEPT's writes to the edge: each lane's value into the half of the frame's phase, and the count (R216). -/
def EdgeState.accept (es : EdgeState) (f : SeamFrame) : EdgeState :=
  let filled := f.lanes.foldl (fun es l => es.setHalf f.phase.toNat l.lane.toNat l.value) es
  { filled with rxNext := es.rxNext + 1 }

/-- ACCEPT (R216). -/
def State.acceptFrame (s : State) (e : Dir) (f : SeamFrame) : State :=
  (s.setEdge e ((s.edge e).accept f)).unblock

/-- FAULT: count, blame, report; the frame is discarded (R217). -/
def State.seamFault (s : State) (e : Dir) (k : FaultKind) : State :=
  ((s.setEdge e { s.edge e with fcount := (s.edge e).fcount.bump k }).blame e k).report k.errorCode

/-- The verdict on a frame, in the order of R210: none is acceptance. -/
def State.frameVerdict (s : State) (e : Dir) (f : SeamFrame) : Option FaultKind :=
  let x := (s.edge e).rxNext
  if frameMisfits s.params e f then some .frameCorrupt
  else if 0 < x ∧ f.epoch = BitVec.ofNat 32 ((x - 1) / 2) ∧ f.phase.toNat = (x - 1) % 2 then some .duplicate
  else if f.epoch ≠ BitVec.ofNat 32 (x / 2) then some .epochMismatch
  else if f.phase.toNat ≠ x % 2 then some .phaseMismatch
  else none

/-- SEAM_RECEIVE after the bytes have been read as a frame, or not (R210). -/
def State.receiveParsed (s : State) (e : Dir) (frame : Option SeamFrame) : State :=
  if s.halted ∨ (s.edge e).linked = false then s
  else
    match frame with
    | none => s.seamFault e .frameCorrupt
    | some f =>
      match s.frameVerdict e f with
      | some k => s.seamFault e k
      | none => s.acceptFrame e f

/-- SEAM_RECEIVE (R210). -/
def execSeamReceive (e : Dir) (frame : Bytes) (s : State) : Host.Outcome State Fault Refusal :=
  .next (s.receiveParsed e (decodeSeam frame))

/-- SEAM_FRAME: the arrival of a well-formed seam frame at the seam port `port` (R130, R210; log 21). -/
def execSeamFrame (port : Dir) (f : SeamFrame) (s : State) : Host.Outcome State Fault Refusal :=
  .next (s.receiveParsed port (some f))

/-! ### The barrier (R219 to R221) -/

/-- STALL is enabled: the pending tick is blocked, and its report has not been sent (R219) or the status does not show the block
(10_state.md R41; log 9). -/
def State.stallEnabled (s : State) : Bool :=
  !s.halted && decide (0 < s.pending) && !s.barrierOk && (decide (s.reported ≠ some s.t) || !s.bstat.blocked)

/-- The blocked state, reported once per blocked tick (R219, 10_state.md R45). -/
def State.enterStall (s : State) : State :=
  let blocked := { s with bstat := s.blockedStatus }
  if s.reported = some s.t then blocked else { blocked.report .missing with reported := some s.t }

/-- STALL: enter the blocked state (R219). -/
def execStall (s : State) : Host.Outcome State Fault Refusal := .next (if s.stallEnabled then s.enterStall else s)

/-- SEAM_READ (R220). -/
def execSeamRead (c : Coord) (out : Dir) (s : State) : Host.Outcome State Fault Refusal :=
  match s.seamValue c out with
  | some b => .next { s with value := bitValue b }
  | none => .fault .notSeamCoordinate

/-- SUBSTITUTE_HELD is enabled on edge `e` (R221). -/
def State.substituteEnabled (s : State) (e : Dir) : Bool :=
  decide (s.params.policy = .holdLastGood) && !s.halted && decide (0 < s.pending) && s.edgeMissing e

/-- SUBSTITUTE_HELD's effect (R221). -/
def State.substituteHeld (s : State) (e : Dir) : State :=
  let s1 := (s.setEdge e { s.edge e with rxNext := (s.edge e).rxNext + 1, substituted := true }).report .substituted
  if s1.barrierOk then s1.clearBarrier else s1

/-- SUBSTITUTE_HELD (R221). -/
def execSubstituteHeld (e : Dir) (s : State) : Host.Outcome State Fault Refusal :=
  .next (if s.substituteEnabled e then s.substituteHeld e else s)

end Sys2Proof.Machine
end

