-- ==== Sys2Proof/Machine/Tick.lean ====
section
/-!
DEFINITION. The two-phase tick and the cycle (41_tick.md R170 to R175).
-/

namespace Sys2Proof.Machine

/-- TICK is enabled (R170). -/
def State.tickEnabled (s : State) : Bool := !s.halted && decide (0 < s.pending) && s.barrierOk

/-- `nxt` of one cell in tick `t`: new outputs for the tick's parity, held outputs for the other (R170, R173). -/
def State.nextOutputs (s : State) (c : Coord) : Nibble :=
  if c.parity = s.t % 2 then s.cellOutputs c else s.curAt c

/-- `nxt` of the whole region, every cell read from the pre-tick snapshot (R172). -/
def State.nextBuffer (s : State) : List Nibble := (regionCoords s.params).map s.nextOutputs

/-- The commit: `nxt` and `cur` both become the next buffer (R170, R172). -/
def State.commitTick (s : State) : State := { s with nxt := s.nextBuffer, cur := s.nextBuffer }

/-- One frame per linked edge, in edge order (R170, R207). -/
def State.emitAll (s : State) (f : Nat) : State := allDirs.foldl (fun s e => s.emitIfLinked e f) s

/-- The body of TICK; `bstat` and `reported` are clear once a tick runs (R170; log 10). -/
def State.tickBody (s : State) : State :=
  let s1 := s.commitTick.emitAll s.t
  { s1 with t := s.t + 1, pending := s.pending - 1, bstat := BarrierStatus.clear, reported := none }

/-- TICK where it is enabled; otherwise it does not happen (log 8). -/
def State.tickIfEnabled (s : State) : State := if s.tickEnabled then s.tickBody else s

/-- TICK (R170). -/
def execTick (s : State) : Host.Outcome State Fault Refusal := .next s.tickIfEnabled

/-- CYCLE: from an even `t`, tick A and then tick B (R175; log 18). -/
def execCycle (s : State) : Host.Outcome State Fault Refusal :=
  .next (if s.t % 2 = 0 then s.tickIfEnabled.tickIfEnabled else s)

end Sys2Proof.Machine
end

