-- ==== Sys2Proof/Machine/Commands.lean ====
section
/-!
DEFINITION. The session and data commands (43_host_commands.md R243, R246, R253 to R258), and the answers to block-to-host and
unknown types (R243, R256, R261, R262).
-/

namespace Sys2Proof.Machine

/-- HELLO: open the session and negotiate; the one command that needs no session (R244, R246). -/
def execHello (seq _width _height : BitVec 16) (protoVersion : Byte) (_features : BitVec 32) (s : State) :
    Host.Outcome State Fault Refusal :=
  .next <| s.betweenSteps fun s =>
    if protoVersion ≠ Config.protoVersion then s.sendError seq .badVersion
    else
      ({ s with session := true, upload := none }).sendHost
        (.hello seq (BitVec.ofNat 16 s.params.tileW) (BitVec.ofNat 16 s.params.tileH) Config.protoVersion s.params.features)

/-- SET_INPUTS: all names declared, then the values in order (R253). -/
def execSetInputs (seq : BitVec 16) (entries : List TlvEntry) (s : State) : Host.Outcome State Fault Refusal :=
  .next <| s.command seq fun s =>
    if entries.any fun t => (s.inWidth t.name).isNone then s.sendError seq .undeclaredName
    else entries.foldl (fun s t => s.writeInput t.name t.value) s

/-- STEP: the ticks to run (R254). -/
def execStep (seq : BitVec 16) (ticks : BitVec 32) (s : State) : Host.Outcome State Fault Refusal :=
  .next <| s.command seq fun s => { s with pending := ticks.toNat }

/-- Bytewise order of names: a proper prefix comes first (R255). -/
def bytesLt : Bytes → Bytes → Bool
  | _, [] => false
  | [], _ :: _ => true
  | a :: as, b :: bs => decide (a.toNat < b.toNat) || (decide (a = b) && bytesLt as bs)

/-- A name put into an increasing list. -/
def insertName (n : VarName) : List VarName → List VarName
  | [] => [n]
  | m :: rest => if bytesLt m n then m :: insertName n rest else n :: m :: rest

/-- The names in increasing bytewise order (R255). -/
def sortNames (names : List VarName) : List VarName := names.foldr insertName []

/-- The names GET_OUTPUTS answers: every declared output in order, or the request's in request order (R255). -/
def State.selectedNames (s : State) (sel : List TlvEntry) : List VarName :=
  if sel.isEmpty then sortNames (s.outDecl.map Prod.fst) else sel.map TlvEntry.name

/-- The entry OUTPUTS carries for a declared output (R255). -/
def State.outputEntry (s : State) (n : VarName) : TlvEntry := ⟨n, s.tapsValue ((s.outTaps n).getD [])⟩

/-- GET_OUTPUTS: read output variables; no state but the reply (R255). -/
def execGetOutputs (seq : BitVec 16) (sel : List TlvEntry) (s : State) : Host.Outcome State Fault Refusal :=
  .next <| s.command seq fun s =>
    let names := s.selectedNames sel
    if names.any fun n => (s.outTaps n).isNone then s.sendError seq .undeclaredName
    else if Config.maxPayload < (names.map fun n => 9 + n.length).sum then s.sendError seq .replyTooLarge
    else s.sendHost (.outputs seq (names.map s.outputEntry))

/-- What QUIT and SHUTDOWN share: the remaining ticks, the barrier status, the session and the upload are dropped (R257, R258). -/
def State.endSession (s : State) : State :=
  { s with pending := 0, bstat := BarrierStatus.clear, session := false, upload := none }

/-- QUIT: close the session (R257). -/
def execQuit (seq : BitVec 16) (s : State) : Host.Outcome State Fault Refusal :=
  .next <| s.endingCommand seq State.endSession

/-- SHUTDOWN: stop the tile (R258). -/
def execShutdown (seq : BitVec 16) (s : State) : Host.Outcome State Fault Refusal :=
  .next <| s.endingCommand seq fun s => { s.endSession with halted := true }

/-- OUTPUTS received by the block (R243, R256). -/
def execOutputs (seq : BitVec 16) (_payload : Bytes) (s : State) : Host.Outcome State Fault Refusal :=
  .next <| s.betweenSteps fun s => s.sendError seq .unexpectedType

/-- LINK_ACK received by the block (R243, R261). -/
def execLinkAck (seq : BitVec 16) (_payload : Bytes) (s : State) : Host.Outcome State Fault Refusal :=
  .next <| s.betweenSteps fun s => s.sendError seq .unexpectedType

/-- ERROR received by the block (R243, R262). -/
def execError (seq : BitVec 16) (_payload : Bytes) (s : State) : Host.Outcome State Fault Refusal :=
  .next <| s.betweenSteps fun s => s.sendError seq .unexpectedType

/-- A frame of a type outside the opcode map (R243, 30_encoding.md R128). -/
def execUnknownType (seq : BitVec 16) (_type : Byte) (_payload : Bytes) (s : State) :
    Host.Outcome State Fault Refusal :=
  .next <| s.betweenSteps fun s => s.sendError seq .unknownType

/-- FEATURES bit 0 gates LINK and UNLINK: without it their types are unknown (R243). -/
def State.seamFeature (s : State) (seq : BitVec 16) (run : State → State) : State :=
  if s.params.features.getLsbD 0 then run s else s.sendError seq .unknownType

/-- LINK_EFFECT (42_seam_barrier.md R222). -/
def State.linkEdge (s : State) (e : Dir) : State :=
  s.setEdge e { (s.edge e).clearHalves with linked := true, rxNext := 0, tx := [] }

/-- UNLINK_EFFECT: the half and the count keep their values (R224). -/
def State.unlinkEdge (s : State) (e : Dir) : State := s.setEdge e { s.edge e with linked := false, tx := [] }

/-- LINK (R259). -/
def execLink (seq : BitVec 16) (edge : Byte) (s : State) : Host.Outcome State Fault Refusal :=
  .next <| s.betweenSteps fun s => s.seamFeature seq fun s => s.inSession seq fun s =>
    match Dir.ofCode edge.toNat with
    | none => s.sendError seq .badEdge
    | some e =>
      if hasNeighbour s.params e = false then s.sendError seq .badEdge
      else if s.t ≠ 0 then s.sendError seq .linkNotAtStart
      else if (s.edge e).linked then s.sendError seq .alreadyLinked
      else (s.linkEdge e).sendHost (.linkAck seq edge 1)

/-- UNLINK (R260). -/
def execUnlink (seq : BitVec 16) (edge : Byte) (s : State) : Host.Outcome State Fault Refusal :=
  .next <| s.betweenSteps fun s => s.seamFeature seq fun s => s.inSession seq fun s =>
    match Dir.ofCode edge.toNat with
    | none => s.sendError seq .badEdge
    | some e =>
      if (s.edge e).linked = false then s.sendError seq .notLinked
      else (s.unlinkEdge e).sendHost (.linkAck seq edge 0)

end Sys2Proof.Machine
end

