-- ==== Sys2Proof/Machine/Upload.lean ====
section
/-!
DEFINITION. The configuration commands: LOAD_CHUNK, APPLY, the bitstream checks and COMMIT (43_host_commands.md R247 to R252).
-/

namespace Sys2Proof.Machine

/-- The buffer a chunk goes to: the open one where session id and total agree, else a fresh one (R247). -/
def State.uploadFor (s : State) (sid total : BitVec 32) : Upload :=
  match s.upload with
  | some u => if u.sid = sid ∧ u.total = total then u else ⟨sid, total, []⟩
  | none => ⟨sid, total, []⟩

/-- LOAD_CHUNK (R247). -/
def execLoadChunk (seq : BitVec 16) (sid total off : BitVec 32) (chunk : Bytes) (s : State) :
    Host.Outcome State Fault Refusal :=
  .next <| s.command seq fun s =>
    if s.params.maxUpload < total.toNat then s.sendError seq .uploadTooLarge
    else if total.toNat < off.toNat + chunk.length then s.sendError seq .chunkOutOfRange
    else
      let u := s.uploadFor sid total
      { s with upload := some { u with mem := Memory.writeBytes u.mem off.toNat chunk } }

/-- What DECODE answers: the tables, or the code of the first failing check. -/
inductive BitstreamResult where
  | tables (ts : List (PerDir Table))
  | fail (code : ErrorCode)
  deriving DecidableEq, Repr

/-- The header checks, in the order of R250, then the payload (R251). -/
def decodeHeadered (p : Params) (b : Bytes) : BitstreamResult :=
  let h := headerFields b
  let w := h.width.toNat
  let ht := h.height.toNat
  let payload := b.drop 24
  if b.take 4 ≠ Config.bitstreamMagic then .fail .badMagic
  else if memRead b 4 2 ≠ 1 then .fail .badBitstreamVersion
  else if memRead b 6 2 ≠ 24 then .fail .badHeaderSize
  else if w = 0 ∨ w % 2 = 1 ∨ ht = 0 ∨ ht % 2 = 1 then .fail .badDimension
  else if w ≠ p.tileW ∨ ht ≠ p.tileH then .fail .dimensionMismatch
  else if 2 < h.order.toNat then .fail .badOrder
  else if h.payloadBits.toNat ≠ 64 * w * ht ∨ b.length ≠ 24 + h.payloadBits.toNat / 8 then .fail .payloadLengthMismatch
  else if h.payloadCrc ≠ crc32 payload then .fail .crcMismatch
  else .tables (decodeTables payload h.order.toNat p.tileW p.tileH (h.flags.getLsbD 0))

/-- DECODE: headerless by length alone, else headered (R249; 30_encoding.md R100, R103). -/
def decodeUpload (p : Params) (b : Bytes) : BitstreamResult :=
  if b.length = 8 * p.tileW * p.tileH then .tables (decodeTables b 0 p.tileW p.tileH true)
  else if b.length < 24 then .fail .badHeaderSize
  else decodeHeadered p b

/-- What COMMIT does to an edge: counts, halves, retention and the substitution mark; the link and the sticky counters stay
(R252). -/
def EdgeState.restart (es : EdgeState) : EdgeState :=
  { es.clearHalves with rxNext := 0, tx := [], substituted := false }

/-- COMMIT (R252). -/
def State.commitTables (s : State) (ts : List (PerDir Table)) : State :=
  { s with
    lut := ts
    cur := s.cur.map fun _ => 0
    t := 0
    edges := ⟨s.edges.n.restart, s.edges.e.restart, s.edges.s.restart, s.edges.w.restart⟩
    bstat := BarrierStatus.clear
    reported := none }

/-- APPLY of a complete upload holding `b`, for the request `seq`: decode, then commit or report (R248). -/
def State.applyBitstream (s : State) (seq : BitVec 16) (b : Bytes) : State :=
  match decodeUpload s.params b with
  | .tables ts => s.commitTables ts
  | .fail code => s.sendError seq code

/-- APPLY (R248). An incomplete upload is kept; a complete one is consumed, whatever the checks say. -/
def execApply (seq : BitVec 16) (s : State) : Host.Outcome State Fault Refusal :=
  .next <| s.command seq fun s =>
    match s.upload with
    | none => s.sendError seq .incompleteUpload
    | some u =>
      if u.complete then ({ s with upload := none }).applyBitstream seq u.bytes
      else s.sendError seq .incompleteUpload

/-- BITSTREAM_HEADER: the bitstream an APPLY with sequence number `seq` finds in its upload (R249 to R252; log 22). A halted tile
takes none and sends nothing (R264). -/
def execBitstreamHeader (seq : BitVec 16) (h : BitstreamHeader) (payload : Bytes) (s : State) :
    Host.Outcome State Fault Refusal :=
  .next (if s.halted then s else s.applyBitstream seq (encodeBitstream h payload))

/-- COMMIT of tables, one entry per cell of the region (R252; log 16). Run on its own it has no halted gate (log 30). -/
def execCommit (ts : List (PerDir Table)) (s : State) : Host.Outcome State Fault Refusal :=
  if ts.length = cellCount s.params then .next (s.commitTables ts) else .fault .tablesNotOfRegion

end Sys2Proof.Machine
end

