-- ==== Sys2Proof/WellFormed.lean ====
section
/-!
DEFINITION. The static checks on instructions: what an encoding or a launch can carry at all. `Instr.wf` is a Bool.
-/

namespace Sys2Proof

/-- A variable name is 1 to 255 bytes (10_state.md R25, R26). -/
def nameOk (n : VarName) : Bool := decide (1 ≤ n.length) && decide (n.length ≤ 255)

/-- A TLV list fits a payload and its names are names (30_encoding.md R113). -/
def entriesOk (es : List TlvEntry) : Bool :=
  es.all (fun t => nameOk t.name) && decide ((es.map fun t => 9 + t.name.length).sum ≤ Config.maxPayload)

/-- A payload's length fits the u16 `length` field (R110). -/
def payloadOk (p : Bytes) : Bool := decide (p.length ≤ Config.maxPayload)

/-- The type bytes of the opcode map (R127). -/
def knownType (type : Byte) : Bool :=
  (decide (1 ≤ type.toNat) && decide (type.toNat ≤ 0x0C)) || decide (type.toNat = 0x7F)

/-- An even number within the grid limits (R7). -/
def dimOk (n : Nat) : Bool := decide (n % 2 = 0) && decide (2 ≤ n) && decide (n ≤ Config.maxDimension)

/-- The constraints 00_scope.md R7 and 42_seam_barrier.md R201 put on the launch parameters. FEATURES bit 0 may be 1, the value of
R7's table, or 0, to which 43_host_commands.md R243 gives a meaning (log 29). -/
def Params.valid (p : Params) : Bool :=
  dimOk p.gridW && dimOk p.gridH && dimOk p.tileW && dimOk p.tileH
    && decide (p.tileW * p.tileH ≤ Config.maxTileCells)
    && decide (p.originX % 2 = 0) && decide (p.originY % 2 = 0)
    && decide (p.originX + p.tileW ≤ p.gridW) && decide (p.originY + p.tileH ≤ p.gridH)
    && decide (24 + 8 * p.tileW * p.tileH ≤ p.maxUpload)
    && decide (p.features.toNat ≤ 1)

/-- The names of `input_bits` and of `output_bits` are keys of an object: no name twice in one of them (R95). -/
def Program.keysDistinct (g : Program) : Bool :=
  decide (g.inputBits.map Prod.fst).Nodup && decide (g.outputBits.map Prod.fst).Nodup

/-- The static well-formedness of an instruction. -/
def Instr.wf : Instr → Bool
  | .hello _ _ _ _ _ => true
  | .loadChunk _ _ _ _ chunk => decide (16 + chunk.length ≤ Config.maxPayload)
  | .apply _ => true
  | .step _ _ => true
  | .setInputs _ es => !es.isEmpty && entriesOk es
  | .getOutputs _ es => entriesOk es
  | .outputs _ p => payloadOk p
  | .quit _ => true
  | .shutdown _ => true
  | .link _ _ => true
  | .unlink _ _ => true
  | .linkAck _ p => payloadOk p
  | .error _ p => payloadOk p
  | .unknownType _ type p => !knownType type && payloadOk p
  | .seamFrame _ f => decide (f.lanes.length < 65536)
  | .bitstreamHeader _ _ _ => true
  | .evalLut _ _ => true
  | .resolve (.input n b) => nameOk n && decide (b < Config.maxVarWidth)
  | .resolve .unwired => true
  | .resolve (.const _) => true
  | .resolve (.cell _ _) => true
  | .index _ => true
  | .evalCell _ => true
  | .tick => true
  | .cycle => true
  | .emitFrame _ _ => true
  | .resend _ _ _ => true
  | .seamReceive _ _ => true
  | .stall => true
  | .seamRead _ _ => true
  | .substituteHeld _ => true
  | .controlStep => true
  | .commit _ => true
  | .reset p g => p.valid && g.keysDistinct

end Sys2Proof
end

