-- ==== Sys2Proof/Machine/Admission.lean ====
section
/-!
DEFINITION. The launch of a tile: the checks of a Program (40_lut_eval.md R145 to R153) in the order of 60_exceptions.md R312, the
configuration an admitted Program folds into, and RESET (70_reset_and_hazards.md R340, R341).
-/

namespace Sys2Proof

/-! ### The parts of a Program -/

/-- The coordinate of a cell record. -/
def CellRecord.coord (r : CellRecord) : Coord := ⟨r.x, r.y⟩

/-- `outputs` is four integers in 0 .. 65535 and `inputs`, where present, four entries (R150). -/
def CellRecord.shapeOk (r : CellRecord) : Bool :=
  decide (r.outputs.length = 4) && r.outputs.all (fun v => decide (0 ≤ v ∧ v ≤ 65535))
    && match r.inputs with
      | none => true
      | some l => decide (l.length = 4)

/-- The pin sources of a record, N, E, S, W (30_encoding.md R96). -/
def CellRecord.pins (r : CellRecord) : List RawSource :=
  match r.inputs with
  | none => [.null, .null, .null, .null]
  | some l => l

/-- The direction code of an integer, none where it is not one (R93). -/
def dirOfInt (d : Int) : Option Dir := if 0 ≤ d then Dir.ofCode d.toNat else none

/-- The record a Program lists at a coordinate. -/
def Program.recordAt (g : Program) (c : Coord) : Option CellRecord := g.cells.find? fun r => decide (r.coord = c)

/-- A checked source as a selector (10_state.md R24). -/
def RawSource.resolved : RawSource → Source
  | .null => .unwired
  | .const v => .const (decide (v = 1))
  | .input n b => .input n b
  | .cell x y out => .cell ⟨x, y⟩ ((dirOfInt out).getD .north)
  | .other => .unwired

/-- The four tables a record gives (R23). -/
def CellRecord.tables (r : CellRecord) : PerDir Table where
  n := BitVec.ofInt 16 (r.outputs.getD 0 0)
  e := BitVec.ofInt 16 (r.outputs.getD 1 0)
  s := BitVec.ofInt 16 (r.outputs.getD 2 0)
  w := BitVec.ofInt 16 (r.outputs.getD 3 0)

/-- The four selectors a record gives (R24). -/
def CellRecord.sources (r : CellRecord) : PerDir Source where
  n := (r.pins.getD 0 .null).resolved
  e := (r.pins.getD 1 .null).resolved
  s := (r.pins.getD 2 .null).resolved
  w := (r.pins.getD 3 .null).resolved

/-- A checked tap (R26). -/
def RawTap.tap (t : RawTap) : Tap := ⟨⟨t.x, t.y⟩, (dirOfInt t.dir).getD .north⟩

namespace Machine

/-! ### The launch checks -/

/-- The first error of a sequence of checks. -/
def firstError (checks : List (Option ErrorCode)) : Option ErrorCode := checks.findSome? id

/-- An error where a condition fails. -/
def require (ok : Bool) (code : ErrorCode) : Option ErrorCode := if ok then none else some code

/-- A Program dimension is even and within 2 .. 65534 (R146 (1)). -/
def programDimOk (n : Int) : Bool := decide (n % 2 = 0 ∧ 2 ≤ n ∧ n ≤ (Config.maxDimension : Int))

/-- The dimension checks (R146 (1)): both dimensions in range first, then both equal to the tile's, the model's order (log 11). -/
def dimensionError (p : Params) (g : Program) : Option ErrorCode :=
  firstError [
    require (programDimOk g.width && programDimOk g.height) .badDimension,
    require (decide (g.width = p.tileW ∧ g.height = p.tileH)) .dimensionMismatch]

/-- The record checks of R150 and R152, record by record in list order. Of one record the coordinate is checked first, then the
legacy opcode, then the shape of its tables and pins: the model's order (log 11). -/
def recordsError : List Coord → List CellRecord → Option ErrorCode
  | _, [] => none
  | seen, r :: rest =>
    firstError [
      require (!seen.contains r.coord) .duplicateCell,
      require (!r.legacyOp) .legacyOpcodeCell,
      require r.shapeOk .badCellRecord,
      recordsError (r.coord :: seen) rest]

/-- A variable's width is 1 to 64 (R149). -/
def widthOk (w : Nat) : Bool := decide (1 ≤ w) && decide (w ≤ Config.maxVarWidth)

/-- The width and name checks (R149): every width, then every name, inputs before outputs in each (log 11). -/
def declarationsError (g : Program) : Option ErrorCode :=
  firstError [
    require (g.inputBits.all (fun d => widthOk d.2) && g.outputBits.all (fun d => widthOk d.2.length)) .widthOutOfRange,
    require (g.inputBits.all (fun d => nameOk d.1) && g.outputBits.all (fun d => nameOk d.1)) .badName]

/-- R146 (3): a CELL source names a coordinate of the logical grid and an output. -/
def cellSourceError (p : Params) : RawSource → Option ErrorCode
  | .cell x y out => firstError [
      require (inGrid p ⟨x, y⟩) .coordOutOfBounds,
      require (dirOfInt out).isSome .badSource]
  | .null => none
  | .const _ => none
  | .input _ _ => none
  | .other => none

/-- R146 (4): constants are 0 or 1. The check of 30_encoding.md R97, that a source has one of its forms, is made with it: the model's
place for it, since R312 names none (log 32). -/
def constSourceError : RawSource → Option ErrorCode
  | .const v => require (decide (v = 0 ∨ v = 1)) .badSource
  | .other => some .badSource
  | .null => none
  | .input _ _ => none
  | .cell _ _ _ => none

/-- R147: a CELL source is grid-adjacent to its consumer. -/
def adjacencyError (c : Coord) : RawSource → Option ErrorCode
  | .cell x y _ => require (c.adjacent ⟨x, y⟩) .nonAdjacentSource
  | .null => none
  | .const _ => none
  | .input _ _ => none
  | .other => none

/-- R148: an INPUT source names a declared input and one of its bits; both are checked pin by pin, the model's order (log 11). -/
def inputSourceError (g : Program) : RawSource → Option ErrorCode
  | .input n b =>
    match lookupName n g.inputBits with
    | none => some .undeclaredName
    | some w => require (decide (b < w)) .bitIndexOutOfRange
  | .null => none
  | .const _ => none
  | .cell _ _ _ => none
  | .other => none

/-- One check over every pin of every record, records in list order, pins N, E, S, W (R312). -/
def pinsError (g : Program) (check : Coord → RawSource → Option ErrorCode) : Option ErrorCode :=
  firstError (g.cells.map fun r => firstError (r.pins.map (check r.coord)))

/-- R151: every tap is in the region and its direction is one, tap by tap (log 11). -/
def tapsError (p : Params) (g : Program) : Option ErrorCode :=
  firstError (g.outputBits.map fun d => firstError (d.2.map fun tap => firstError [
    require (inRegion p ⟨tap.x, tap.y⟩) .outputNotInRegion,
    require (dirOfInt tap.dir).isSome .badSource]))

/-- The launch checks, in the order of R312, and inside one of its groups in the order of log 11: none is admission. -/
def admissionError (p : Params) (g : Program) : Option ErrorCode :=
  firstError [
    dimensionError p g,
    recordsError [] g.cells,
    declarationsError g,
    firstError (g.cells.map fun r => require (inRegion p r.coord) .coordOutOfBounds),
    pinsError g fun _ => cellSourceError p,
    pinsError g fun _ => constSourceError,
    pinsError g adjacencyError,
    pinsError g fun _ => inputSourceError g,
    tapsError p g]

/-- The tables of the region; a coordinate the Program does not list has four zero tables (R22, R23). -/
def programTables (p : Params) (g : Program) : List (PerDir Table) :=
  (regionCoords p).map fun c => ((g.recordAt c).map CellRecord.tables).getD (PerDir.all 0)

/-- The selectors of the region; a coordinate the Program does not list has four unwired pins (R22, R24). -/
def programSources (p : Params) (g : Program) : List (PerDir Source) :=
  (regionCoords p).map fun c => ((g.recordAt c).map CellRecord.sources).getD (PerDir.all .unwired)

/-- The state of R341 for an admitted Program, with `drawn` ERROR texts drawn before (log 4) and an agenda (log 3). -/
def initialState (p : Params) (g : Program) (drawn : Nat) (agenda : List Event) : State where
  params := p
  lut := programTables p g
  src := programSources p g
  inDecl := g.inputBits
  outDecl := g.outputBits.map fun d => (d.1, d.2.map RawTap.tap)
  latency := g.latency
  cur := List.replicate (cellCount p) 0
  nxt := List.replicate (cellCount p) 0
  ins := g.inputBits.map fun d => (d.1, 0)
  t := 0
  halted := false
  session := false
  upload := none
  pending := 0
  q := []
  edges := ⟨EdgeState.initial (laneCount p .north), EdgeState.initial (laneCount p .east),
    EdgeState.initial (laneCount p .south), EdgeState.initial (laneCount p .west)⟩
  bstat := BarrierStatus.clear
  protoDrops := 0
  reported := none
  hostOut := []
  seamOut := []
  freeCount := drawn
  value := 0
  agenda := agenda

/-- RESET: the launch of a tile. A Program that fails a check is refused with that check's code and no tile exists (R340,
R306); a new launch is a new tile, of which only the environment's agenda and free texts go on (log 17). -/
def execReset (p : Params) (g : Program) (s : State) : Host.Outcome State Fault Refusal :=
  if p.valid && g.keysDistinct then
    match admissionError p g with
    | none => .next (initialState p g s.freeCount s.agenda)
    | some code => .refused (.launchRefused code)
  else .refused .parametersOutOfRange

end Machine

end Sys2Proof
end

