-- ==== Sys2Proof/Machine/Control.lean ====
section
/-!
DEFINITION. CONTROL_STEP: the control port takes one frame from its arrival queue (43_host_commands.md R241).
-/

namespace Sys2Proof.Machine

/-- The head frame may be taken while a STEP has ticks to run: it is not FRAMED, or a version-1 QUIT or SHUTDOWN (R241). -/
def takenDuringStep (frame : Bytes) : Bool :=
  !framed frame
    || (decide (frameVersion frame = Config.protoVersion)
      && (decide (frameType frame = 0x08) || decide (frameType frame = 0x09)))

/-- CONTROL_STEP is enabled (R241). -/
def State.controlEnabled (s : State) : Bool :=
  !s.halted
    && match s.q with
      | [] => false
      | frame :: _ => decide (s.pending = 0) || takenDuringStep frame

/-- What a rejected frame gets (R241 to R245): an unframed one is dropped and counted; a FRAMED one is answered, the checks of
type and session coming before the payload's. -/
def State.rejectFrame (s : State) (why : DecodeError) : State :=
  match why with
  | .notFramed => { s with protoDrops := s.protoDrops + 1 }
  | .badVersion seq => s.sendError seq .badVersion
  | .malformedPayload seq type =>
    if type = 0x01 then s.sendError seq .malformedPayload
    else if type = 0x0A ∨ type = 0x0B then
      s.seamFeature seq fun s => s.inSession seq fun s => s.sendError seq .malformedPayload
    else s.inSession seq fun s => s.sendError seq .malformedPayload
  | .seamFrameCorrupt => s
  | .notBitstreamHeader => s

/-- EXECUTE(F): the meaning of a decoded control frame (R241). The control port decodes no other instruction. -/
def executeFrame (i : Instr) (s : State) : Host.Outcome State Fault Refusal :=
  match i with
  | .hello seq w h v f => execHello seq w h v f s
  | .loadChunk seq sid total off chunk => execLoadChunk seq sid total off chunk s
  | .apply seq => execApply seq s
  | .step seq ticks => execStep seq ticks s
  | .setInputs seq es => execSetInputs seq es s
  | .getOutputs seq sel => execGetOutputs seq sel s
  | .outputs seq p => execOutputs seq p s
  | .quit seq => execQuit seq s
  | .shutdown seq => execShutdown seq s
  | .link seq edge => execLink seq edge s
  | .unlink seq edge => execUnlink seq edge s
  | .linkAck seq p => execLinkAck seq p s
  | .error seq p => execError seq p s
  | .unknownType seq type p => execUnknownType seq type p s
  | .seamFrame _ _ | .bitstreamHeader _ _ _ | .evalLut _ _ | .resolve _ | .index _ | .evalCell _ | .tick | .cycle
  | .emitFrame _ _ | .resend _ _ _ | .seamReceive _ _ | .stall | .seamRead _ _ | .substituteHeld _ | .controlStep
  | .commit _ | .reset _ _ => .next s

/-- CONTROL_STEP (R241). -/
def execControlStep (s : State) : Host.Outcome State Fault Refusal :=
  if s.controlEnabled then
    match s.q with
    | [] => .next s
    | frame :: rest =>
      match decodeControl frame with
      | .instr i => executeFrame i { s with q := rest }
      | .rejected why => .next (({ s with q := rest }).rejectFrame why)
  else .next s

end Sys2Proof.Machine
end

