-- ==== Sys2Proof/Machine/Dispatch.lean ====
section
/-!
DEFINITION. The dispatcher: one arm per constructor of Instr, each one direct call of its meaning.
-/

namespace Sys2Proof.Machine

def exec (i : Instr) (s : State) : Host.Outcome State Fault Refusal :=
  match i with
  | .hello seq w h v f => Sys2Proof.Machine.execHello seq w h v f s
  | .loadChunk seq sid total off chunk => Sys2Proof.Machine.execLoadChunk seq sid total off chunk s
  | .apply seq => Sys2Proof.Machine.execApply seq s
  | .step seq ticks => Sys2Proof.Machine.execStep seq ticks s
  | .setInputs seq entries => Sys2Proof.Machine.execSetInputs seq entries s
  | .getOutputs seq sel => Sys2Proof.Machine.execGetOutputs seq sel s
  | .outputs seq payload => Sys2Proof.Machine.execOutputs seq payload s
  | .quit seq => Sys2Proof.Machine.execQuit seq s
  | .shutdown seq => Sys2Proof.Machine.execShutdown seq s
  | .link seq edge => Sys2Proof.Machine.execLink seq edge s
  | .unlink seq edge => Sys2Proof.Machine.execUnlink seq edge s
  | .linkAck seq payload => Sys2Proof.Machine.execLinkAck seq payload s
  | .error seq payload => Sys2Proof.Machine.execError seq payload s
  | .unknownType seq type payload => Sys2Proof.Machine.execUnknownType seq type payload s
  | .seamFrame port frame => Sys2Proof.Machine.execSeamFrame port frame s
  | .bitstreamHeader seq header payload => Sys2Proof.Machine.execBitstreamHeader seq header payload s
  | .evalLut table idx => Sys2Proof.Machine.execEvalLut table idx s
  | .resolve src => Sys2Proof.Machine.execResolve src s
  | .index c => Sys2Proof.Machine.execIndex c s
  | .evalCell c => Sys2Proof.Machine.execEvalCell c s
  | .tick => Sys2Proof.Machine.execTick s
  | .cycle => Sys2Proof.Machine.execCycle s
  | .emitFrame e f => Sys2Proof.Machine.execEmitFrame e f s
  | .resend e epoch phase => Sys2Proof.Machine.execResend e epoch phase s
  | .seamReceive e frame => Sys2Proof.Machine.execSeamReceive e frame s
  | .stall => Sys2Proof.Machine.execStall s
  | .seamRead c out => Sys2Proof.Machine.execSeamRead c out s
  | .substituteHeld e => Sys2Proof.Machine.execSubstituteHeld e s
  | .controlStep => Sys2Proof.Machine.execControlStep s
  | .commit tables => Sys2Proof.Machine.execCommit tables s
  | .reset p g => Sys2Proof.Machine.execReset p g s

end Sys2Proof.Machine
end

