-- ==== Sys2Proof/Machine/Scheduler.lean ====
section
/-!
DEFINITION. Which agent moves next (00_scope.md R6, 60_exceptions.md R313; log 3): the agenda's head, or where the agenda is
empty an enabled step of the tile itself; and where a step finds its instruction (log 2).
-/

namespace Sys2Proof.Machine

/-- One agent step: a delivery, or the instruction the agent runs. -/
def perform (ev : Event) (s : State) : Host.Outcome State Fault Refusal :=
  match ev with
  | .deliver frame => .next { s with q := s.q ++ [frame] }
  | .control => exec .controlStep s
  | .seam e frame => exec (.seamReceive e frame) s
  | .tick => exec .tick s
  | .stall => exec .stall s
  | .substitute e => exec (.substituteHeld e) s
  | .resend e epoch phase => exec (.resend e epoch phase) s
  | .launch p g => exec (.reset p g) s

/-- The step of the tile itself that is taken where the agenda says nothing: TICK, else STALL, else CONTROL_STEP, whichever
is enabled first; none where the tile is idle (60_exceptions.md R321; log 3). -/
def State.ownEvent (s : State) : Option Event :=
  if s.tickEnabled then some .tick
  else if s.stallEnabled then some .stall
  else if s.controlEnabled then some .control
  else none

/-- The next agent step of the machine. -/
def nextAgentStep (s : State) : Host.Outcome State Fault Refusal :=
  match s.agenda with
  | ev :: rest => perform ev { s with agenda := rest }
  | [] =>
    match s.ownEvent with
    | some ev => perform ev s
    | none => .next s

/-- An upload that holds exactly `b`. -/
def uploadOf (b : Bytes) : Upload := ⟨0, BitVec.ofNat 32 b.length, Memory.writeBytes [] 0 b⟩

/-- The state whose next agent step takes `bytes` from `port`: a control frame stands at the head of the queue and the control
port moves next; seam bytes are what the channel delivers next; a bitstream is the whole upload, and the APPLY that decodes
it is the next frame of an open session (log 2). -/
def State.withMessage (s : State) (port : Port) (bytes : Bytes) : State :=
  match port with
  | .control => { s with q := bytes :: s.q, agenda := .control :: s.agenda }
  | .seam d => { s with agenda := .seam d bytes :: s.agenda }
  | .bitstream seq =>
    { s with
      session := true
      upload := some (uploadOf bytes)
      q := controlFrame Config.protoVersion 0x03 seq [] :: s.q
      agenda := .control :: s.agenda }

end Sys2Proof.Machine
end

