-- ==== Sys2Proof/Machine/Step.lean ====
section
/-!
DEFINITION. The step of the machine and the placement of a message where the next step takes it.
-/

namespace Sys2Proof.Machine

/-- One step: the next agent step (00_scope.md R6). -/
def step (s : State) : Host.Outcome State Fault Refusal := nextAgentStep s

/-- `s` with the message of a table word placed where the next step takes it; a word that is no message places nothing. -/
def State.withFetchWord (s : State) (nbits w : Nat) : State :=
  match tableWordMessage nbits w with
  | some (port, bytes) => s.withMessage port bytes
  | none => s

end Sys2Proof.Machine
end

