-- ==== Sys2Proof/Machine/HostProcedures.lean ====
section
/-!
DEFINITION. The host procedures the spec gives over the commands (41_tick.md R179, R180; 43_host_commands.md R247;
70_reset_and_hazards.md R344): lists of commands a host delivers, with consecutive sequence numbers. They are the host's, not steps
of the block.
-/

namespace Sys2Proof.Machine

/-- A command that still wants its sequence number. -/
abbrev Command := BitVec 16 → Instr

/-- Commands with consecutive sequence numbers from `seq` on, a choice the spec leaves to the host (log 33). -/
def numbered (seq : BitVec 16) : List Command → List Instr
  | [] => []
  | c :: rest => c seq :: numbered (seq + 1) rest

/-- How many entries one SET_INPUTS carries: 248 entries of the longest names fit the u16 `length` of a frame (30_encoding.md R110,
R113; log 33). -/
def inputsPerCommand : Nat := 248

/-- The SET_INPUTS commands for a list of entries: one where a frame holds them all, none where there is no entry (log 33). -/
def inputCommands (entries : List TlvEntry) : List Command :=
  (List.range ((entries.length + (inputsPerCommand - 1)) / inputsPerCommand)).map fun i seq =>
    .setInputs seq ((entries.drop (inputsPerCommand * i)).take inputsPerCommand)

/-- The longest STEP of whole cycles that the u32 `ticks` holds (30_encoding.md R117; log 33). -/
def longestStep : Nat := 2 ^ 32 - 2

/-- The STEP commands for `n` ticks: one where the field holds `n` (log 33). -/
def stepCommands (n : Nat) : List Command :=
  List.replicate (n / longestStep) (fun seq => .step seq (BitVec.ofNat 32 longestStep))
    ++ [fun seq => .step seq (BitVec.ofNat 32 (n % longestStep))]

/-- One entry for every declared input of the tile (R179, 10_state.md R25). -/
def State.vectorEntries (s : State) (values : VarName → BitVec 64) : List TlvEntry :=
  s.inDecl.map fun d => ⟨d.1, values d.1⟩

/-- EVALUATE_VECTOR on a tile: set every declared input, run `latency` full cycles, read the outputs (R179). -/
def evaluateVector (seq : BitVec 16) (values : VarName → BitVec 64) (s : State) : List Instr :=
  numbered seq (inputCommands (s.vectorEntries values) ++ stepCommands (2 * s.latency) ++ [fun seq => .getOutputs seq []])

/-- Streaming: new inputs every `cps` ticks, outputs sampled between steps (R180). -/
def streamVectors (seq : BitVec 16) (cps : Nat) (vectors : List (List TlvEntry)) : List Instr :=
  numbered seq (vectors.flatMap fun entries =>
    inputCommands entries ++ stepCommands cps ++ [fun seq => .getOutputs seq []])

/-- The upload of a bitstream as chunks at their offsets (R247). -/
def uploadChunks (seq : BitVec 16) (sid total : BitVec 32) (chunks : List (Nat × Bytes)) : List Instr :=
  numbered seq (chunks.map fun c seq => .loadChunk seq sid total (BitVec.ofNat 32 c.1) c.2)

/-- LINK of each shared edge (R344). -/
def linkEdges (seq : BitVec 16) (edges : List Dir) : List Instr :=
  numbered seq (edges.map fun e seq => .link seq (BitVec.ofNat 8 e.code))

/-- The deliveries of a list of commands. -/
def deliveries (is : List Instr) : List Event :=
  is.filterMap fun i => (encode i).map fun enc => .deliver enc.bytes

end Sys2Proof.Machine
end

