-- ==== Sys2Proof/Machine/Network.lean ====
section
/-!
DEFINITION. Several tiles (42_seam_barrier.md R200, R201): each is a State of its own, and nothing is shared; what one sends on a
seam port the channel may deliver to the other, any number of times, in any order, altered or not (R223). The machine
`Sys2Proof.core` is one tile; this file says how tiles compose (log 25).
-/

namespace Sys2Proof.Machine

/-- The tiles of a fabric. -/
structure Fabric where
  tiles : List State
  deriving DecidableEq, Repr

/-- Tile `b` lies across edge `e` of tile `a` and shares that whole edge (R201). -/
def facing (a : Params) (e : Dir) (b : Params) : Bool :=
  decide (a.gridW = b.gridW) && decide (a.gridH = b.gridH) &&
    match e with
    | .east => decide (b.originX = a.originX + a.tileW ∧ b.originY = a.originY ∧ b.tileH = a.tileH)
    | .west => decide (a.originX = b.originX + b.tileW ∧ b.originY = a.originY ∧ b.tileH = a.tileH)
    | .south => decide (b.originY = a.originY + a.tileH ∧ b.originX = a.originX ∧ b.tileW = a.tileW)
    | .north => decide (a.originY = b.originY + b.tileH ∧ b.originX = a.originX ∧ b.tileW = a.tileW)

/-- The tiles' regions partition the logical grid `[0, w) × [0, h)` (R200). -/
def Fabric.Partitions (f : Fabric) (w h : Nat) : Prop :=
  (∀ s ∈ f.tiles, s.params.gridW = w ∧ s.params.gridH = h) ∧
  ∀ c : Coord, 0 ≤ c.x ∧ c.x < w ∧ 0 ≤ c.y ∧ c.y < h →
    ∃ i : Nat, ∀ j : Nat, (∃ s : State, f.tiles[j]? = some s ∧ inRegion s.params c = true) ↔ j = i

/-- One agent step of tile `i`; none where there is no such tile or the step does not end in a next state. -/
def Fabric.tileStep (f : Fabric) (i : Nat) (ev : Event) : Option Fabric :=
  match f.tiles[i]? with
  | none => none
  | some s =>
    match perform ev s with
    | .next s' => some ⟨f.tiles.set i s'⟩
    | .fault _ => none
    | .refused _ => none

/-- The channel premise of R223 for the seam between edge `e` of the receiver and the tile `sender` across it: bytes with a
valid magic and CRC are bytes the sender has emitted on its side of the seam. -/
def channelHonest (e : Dir) (sender : State) (bytes : Bytes) : Prop :=
  decodeSeam bytes ≠ none → (e.opp, bytes) ∈ sender.seamOut

/-- The events of a tile that keep a seam between its edge `e` and the tile `other` in step (R225): ticks, stall reports,
retransmissions, deliveries to the host's queue, frames on that edge under the channel premise and any bytes on other edges,
and commands that leave the tick count and the edges as they are. -/
def keepsSeam (e : Dir) (other : State) (ev : Event) (s s' : State) : Prop :=
  match ev with
  | .deliver _ => True
  | .control => s'.t = s.t ∧ s'.edges = s.edges ∧ s'.seamOut = s.seamOut ∧ s'.params = s.params
  | .seam e' bytes => e' = e → channelHonest e other bytes
  | .tick => True
  | .stall => True
  | .substitute e' => e' ≠ e
  | .resend _ _ _ => True
  | .launch _ _ => False

/-- Edge `e` of an admitted tile as LINK leaves it, before any tick: no frame sent and none accepted (R222). -/
structure State.FreshEdge (s : State) (e : Dir) : Prop where
  params : s.params.valid = true
  t : s.t = 0
  linked : (s.edge e).linked = true
  rxNext : (s.edge e).rxNext = 0
  tx : (s.edge e).tx = []
  sent : s.seamOut = []

/-- Runs of two tiles `a` and `b` linked on `a`'s edge `e`, both freshly linked there (R225). -/
inductive SeamPair (e : Dir) : State → State → Prop where
  | start (a b : State) : a.FreshEdge e → b.FreshEdge e.opp → SeamPair e a b
  | left (a a' b : State) (ev : Event) :
      SeamPair e a b → perform ev a = .next a' → keepsSeam e b ev a a' → SeamPair e a' b
  | right (a b b' : State) (ev : Event) :
      SeamPair e a b → perform ev b = .next b' → keepsSeam e.opp a ev b b' → SeamPair e a b'

end Sys2Proof.Machine
end

