-- ==== Sys2Proof/Safety.lean ====
section
/-!
DEFINITION. What the claims call a sound state: the conditions of 10_state.md on each element, which every launch establishes and
every agent step keeps; and runs of ticks.
-/

namespace Sys2Proof.Machine

/-- A pin selector an admitted Program can hold at cell `c`: declared inputs by one of their bits, and grid-adjacent producers
inside the logical grid (40_lut_eval.md R146 to R148). -/
def State.sourceFits (s : State) (c : Coord) (src : Source) : Bool :=
  match src with
  | .unwired => true
  | .const _ => true
  | .input n b =>
    match s.inWidth n with
    | some w => decide (b < w)
    | none => false
  | .cell c' _ => inGrid s.params c' && c.adjacent c'

/-- A sound upload: the cells in canonical form, all below the announced total, the total within the limit (R35, R247). -/
structure UploadSound (p : Params) (u : Upload) : Prop where
  canonical : Memory.wf u.mem = true
  within : ∀ cell ∈ u.mem, cell.1 < u.total.toNat
  limited : u.total.toNat ≤ p.maxUpload

/-- The seam state of edge `e` is sound (R37 to R40, R43). -/
structure EdgeSound (p : Params) (e : Dir) (es : EdgeState) : Prop where
  half0 : es.half0.length = laneCount p e
  half1 : es.half1.length = laneCount p e
  retained : es.tx.length ≤ 2
  neighbour : es.linked = true → hasNeighbour p e = true
  policy : es.substituted = true → p.policy = .holdLastGood

/-- The invariant of the tile (10_state.md). -/
structure State.Inv (s : State) : Prop where
  /-- the launch parameters are within R7 -/
  params : s.params.valid = true
  /-- state is dense: one entry per cell (R22) -/
  lut : s.lut.length = cellCount s.params
  src : s.src.length = cellCount s.params
  cur : s.cur.length = cellCount s.params
  nxt : s.nxt.length = cellCount s.params
  /-- every selector was admitted (R145) -/
  sources : ∀ c d, inRegion s.params c = true → s.sourceFits c (s.srcAt c d) = true
  /-- declared inputs have names and widths of R25, each once -/
  inDecl : ∀ d ∈ s.inDecl, nameOk d.1 = true ∧ widthOk d.2 = true
  inOnce : (s.inDecl.map Prod.fst).Nodup
  /-- one register per declared input, bits at and above its width 0 (R30) -/
  inputs : s.ins.map Prod.fst = s.inDecl.map Prod.fst
  inputBits : ∀ n w, s.inWidth n = some w → (s.inValue n).toNat < 2 ^ w
  /-- declared outputs have names, widths and taps of R26 -/
  outDecl : ∀ d ∈ s.outDecl, nameOk d.1 = true ∧ widthOk d.2.length = true ∧
    ∀ tap ∈ d.2, inRegion s.params tap.c = true
  edges : ∀ e, EdgeSound s.params e (s.edge e)
  upload : ∀ u, s.upload = some u → UploadSound s.params u
  /-- a STEP's count is a u32 (R117) -/
  pending : s.pending < 2 ^ 32
  /-- a halted tile has neither session nor ticks nor upload (R258) -/
  halted : s.halted = true → s.session = false ∧ s.pending = 0 ∧ s.upload = none
  /-- `blocked` only while ticks are pending and the barrier does not hold (R41) -/
  blocked : s.bstat.blocked = true → 0 < s.pending ∧ s.barrierOk = false
  /-- a status that is not blocked is clear (R41) -/
  unblocked : s.bstat.blocked = false → s.bstat = BarrierStatus.clear

/-- `n` ticks in a row, each the TICK of `exec`. -/
def runTicks : Nat → State → Host.Outcome State Fault Refusal
  | 0, s => .next s
  | n + 1, s =>
    match exec .tick s with
    | .next s' => runTicks n s'
    | .fault f => .fault f
    | .refused r => .refused r

/-- One command of a host and the ticks it starts: the command's `exec`, then every tick it leaves to run (43_host_commands.md
R254). -/
def runCommand (i : Instr) (s : State) : Host.Outcome State Fault Refusal :=
  match exec i s with
  | .next s' => runTicks s'.pending s'
  | .fault f => .fault f
  | .refused r => .refused r

/-- The commands of a list in their order, each after the ticks of the one before it (R240, R245). -/
def runCommands : List Instr → State → Host.Outcome State Fault Refusal
  | [], s => .next s
  | i :: rest, s =>
    match runCommand i s with
    | .next s' => runCommands rest s'
    | .fault f => .fault f
    | .refused r => .refused r

/-- The frame at the head of the arrival queue is one the decoder reads as `i` (R241). -/
def State.headIs (s : State) (i : Instr) : Prop := ∃ frame rest, s.q = frame :: rest ∧ decodeControl frame = .instr i

/-- The fabric can run on its own: not halted, at least `n` ticks pending, no edge linked (41_tick.md R170). -/
def State.runsFree (s : State) (n : Nat) : Prop :=
  s.halted = false ∧ n ≤ s.pending ∧ ∀ e, (s.edge e).linked = false

/-- The control port takes commands: not halted and no ticks to run (43_host_commands.md R241). -/
def State.ready (s : State) : Prop := s.halted = false ∧ s.pending = 0

/-- The frames of every linked edge are there for the next `n` ticks: for each of them the neighbour's frame of the tick before
has been accepted (42_seam_barrier.md R218). An edge that is not linked needs none. -/
def State.framesFor (s : State) (n : Nat) : Prop := ∀ e, (s.edge e).linked = true → s.t + n ≤ (s.edge e).rxNext + 1

/-- Ready, with a session open (R244). -/
def State.readyInSession (s : State) : Prop := s.ready ∧ s.session = true

/-- `s` after an ERROR frame has been sent: the report of 60_exceptions.md R310, written out. -/
def State.afterError (s : State) (seq : BitVec 16) (code : ErrorCode) : State :=
  { s with hostOut := s.hostOut ++ [.error seq code s.freeCount], freeCount := s.freeCount + 1 }

/-- `s` after an unsolicited report: the ERROR only while a session is open (R262). -/
def State.afterReport (s : State) (code : ErrorCode) : State := if s.session = true then s.afterError 0 code else s

end Sys2Proof.Machine
end

