-- ==== Sys2Proof/Certificates/Slice0/Obligations.lean ====
section
/-!
DEFINITION. The statements for the provers, from the numbered rules of spec/. A statement about a next state says which next state,
under hypotheses on the state and the operands alone.
-/

section

open Sys2Proof Sys2Proof.Machine

/-! ### Session and configuration commands (43_host_commands.md) -/

/-- HELLO opens the session, drops a partial upload and answers with the tile's geometry; another protocol version is answered
with BAD_VERSION (R246). -/
def Obligations.HelloOpensSession : Prop :=
  ∀ (s : State) (seq w h : BitVec 16) (ver : Byte) (feat : BitVec 32), s.ready →
    (ver = 1 → exec (.hello seq w h ver feat) s = .next { s with
      session := true, upload := none,
      hostOut := s.hostOut ++
        [.hello seq (BitVec.ofNat 16 s.params.tileW) (BitVec.ofNat 16 s.params.tileH) 1 s.params.features] }) ∧
    (ver ≠ 1 → exec (.hello seq w h ver feat) s = .next (s.afterError seq .badVersion))

/-- Without a session every command but HELLO is answered with NO_SESSION and has no other effect; HELLO opens the session, or opens
it again (R244). LINK and UNLINK are commands where FEATURES bit 0 is 1 (R243). -/
def Obligations.CommandsNeedSession : Prop :=
  ∀ (s : State) (seq : BitVec 16), s.ready →
    (s.session = false →
      (∀ sid total off chunk, exec (.loadChunk seq sid total off chunk) s = .next (s.afterError seq .noSession)) ∧
      exec (.apply seq) s = .next (s.afterError seq .noSession) ∧
      (∀ ticks, exec (.step seq ticks) s = .next (s.afterError seq .noSession)) ∧
      (∀ es, exec (.setInputs seq es) s = .next (s.afterError seq .noSession)) ∧
      (∀ es, exec (.getOutputs seq es) s = .next (s.afterError seq .noSession)) ∧
      exec (.quit seq) s = .next (s.afterError seq .noSession) ∧
      exec (.shutdown seq) s = .next (s.afterError seq .noSession) ∧
      (s.params.features.getLsbD 0 = true → ∀ edge,
        exec (.link seq edge) s = .next (s.afterError seq .noSession) ∧
        exec (.unlink seq edge) s = .next (s.afterError seq .noSession))) ∧
    ∀ w h feat, ∃ t, exec (.hello seq w h 1 feat) s = .next t ∧ t.session = true

/-- LOAD_CHUNK writes its bytes at their offsets into the upload of its session id and total, a fresh one where there is none,
and nothing else; a total above MAX_UPLOAD_BYTES and a chunk past the total are refused (R247). -/
def Obligations.LoadChunkWritesItsBytes : Prop :=
  ∀ (s : State) (seq : BitVec 16) (sid total off : BitVec 32) (chunk : Bytes), s.readyInSession →
    let old : List Host.Cell :=
      match s.upload with
      | some u => if u.sid = sid ∧ u.total = total then u.mem else []
      | none => []
    (s.params.maxUpload < total.toNat →
      exec (.loadChunk seq sid total off chunk) s = .next (s.afterError seq .uploadTooLarge)) ∧
    (total.toNat ≤ s.params.maxUpload → total.toNat < off.toNat + chunk.length →
      exec (.loadChunk seq sid total off chunk) s = .next (s.afterError seq .chunkOutOfRange)) ∧
    (total.toNat ≤ s.params.maxUpload → off.toNat + chunk.length ≤ total.toNat →
      ∃ u : Upload, exec (.loadChunk seq sid total off chunk) s = .next { s with upload := some u } ∧
        u.sid = sid ∧ u.total = total ∧
        ∀ a, Memory.read u.mem a =
          if off.toNat ≤ a ∧ a < off.toNat + chunk.length then chunk[a - off.toNat]? else Memory.read old a)

/-- APPLY of a complete upload consumes it and commits its tables or reports the failing check; an absent or incomplete upload is
answered with INCOMPLETE_UPLOAD and kept (R248). -/
def Obligations.ApplyCommitsOrRefuses : Prop :=
  ∀ (s : State) (seq : BitVec 16), s.readyInSession →
    (s.upload = none → exec (.apply seq) s = .next (s.afterError seq .incompleteUpload)) ∧
    (∀ u a, s.upload = some u → a < u.total.toNat → Memory.read u.mem a = none →
      exec (.apply seq) s = .next (s.afterError seq .incompleteUpload)) ∧
    ∀ u, s.upload = some u → (∀ a, a < u.total.toNat → Memory.read u.mem a ≠ none) →
      (∀ code, decodeUpload s.params u.bytes = .fail code →
        exec (.apply seq) s = .next (State.afterError { s with upload := none } seq code)) ∧
      ∀ ts, decodeUpload s.params u.bytes = .tables ts →
        ∃ t, exec (.apply seq) s = .next t ∧ exec (.commit ts) { s with upload := none } = .next t

/-- A string of the headerless length decodes row by row, least significant bit first, and any other shorter than a header is
BAD_HEADER_SIZE (R249). The first failing header check gives the code, a bitstream that passes them all decodes by its order and
its flag bit 0, and one altered payload byte of an accepted bitstream is a CRC mismatch (R250). -/
def Obligations.BitstreamChecksInOrder : Prop :=
  ∀ (p : Params) (b : Bytes),
    (b.length = 8 * p.tileW * p.tileH → decodeUpload p b = .tables (decodeTables b 0 p.tileW p.tileH true)) ∧
    (b.length ≠ 8 * p.tileW * p.tileH → b.length < 24 → decodeUpload p b = .fail .badHeaderSize) ∧
    (b.length ≠ 8 * p.tileW * p.tileH → 24 ≤ b.length →
      let w := memRead b 8 2
      let h := memRead b 10 2
      let checks : List (Prop × ErrorCode) := [
        (b.take 4 ≠ [0x42, 0x47, 0x42, 0x53], .badMagic),
        (memRead b 4 2 ≠ 1, .badBitstreamVersion),
        (memRead b 6 2 ≠ 24, .badHeaderSize),
        (w = 0 ∨ w % 2 = 1 ∨ h = 0 ∨ h % 2 = 1, .badDimension),
        (w ≠ p.tileW ∨ h ≠ p.tileH, .dimensionMismatch),
        (2 < memRead b 12 1, .badOrder),
        (memRead b 14 4 ≠ 64 * w * h ∨ b.length ≠ 24 + memRead b 14 4 / 8, .payloadLengthMismatch),
        (memRead b 18 4 ≠ (crc32 (b.drop 24)).toNat, .crcMismatch)]
      (∀ (i : Nat) (fails : Prop) (code : ErrorCode), checks[i]? = some (fails, code) → fails →
        (∀ (j : Nat) (fails' : Prop) (code' : ErrorCode), j < i → checks[j]? = some (fails', code') → ¬fails') →
        decodeUpload p b = .fail code) ∧
      ((∀ c ∈ checks, ¬c.1) →
        decodeUpload p b =
          .tables (decodeTables (b.drop 24) (memRead b 12 1) p.tileW p.tileH (decide (memRead b 13 1 % 2 = 1))) ∧
        ∀ (i : Nat) (v : Byte), 24 ≤ i → i < b.length → b[i]? ≠ some v →
          decodeUpload p (b.set i v) = .fail .crcMismatch))

/-- Every table bit comes from its payload bit: bit i of output d of the cell with scan index s is payload bit
64·s + 16·d + i, in row, column and snake order, least or most significant bit of a byte first (R251; 20_memory.md R66, R69,
R70). The snake order is the reading that R69 marks as general knowledge and not the source's (log 13). -/
def Obligations.PayloadBitsLandInTheirTables : Prop :=
  ∀ (payload : Bytes) (w h order s i : Nat) (d : Dir) (lsbFirst : Bool), order ≤ 2 → s < w * h → i < 16 →
    let x := if order = 0 then s % w else if order = 1 then s / h else if s / w % 2 = 0 then s % w else w - 1 - s % w
    let y := if order = 1 then s % h else s / w
    let k := 64 * s + 16 * d.code + i
    x < w ∧ y < h ∧
      (((decodeTables payload order w h lsbFirst).getD (y * w + x) (PerDir.all 0)).get d).getLsbD i =
        (payload.getD (k / 8) 0).getLsbD (if lsbFirst then k % 8 else 7 - k % 8)

/-- APPLY of PACK(lut, o) sets the tables to lut, for every tile size a launch allows and every scan order (R265). -/
def Obligations.PackedTablesComeBack : Prop :=
  ∀ (s : State) (seq : BitVec 16) (u : Upload) (ts : List (PerDir Table)) (order : Nat),
    s.readyInSession → s.params.valid = true → order ≤ 2 → ts.length = cellCount s.params →
    s.upload = some u → u.complete = true → u.bytes = pack ts order s.params.tileW s.params.tileH →
    ∃ t, exec (.apply seq) s = .next t ∧ t.lut = ts

/-- COMMIT replaces the tables, clears the outputs and the tick count, restarts the seam counts and clears the barrier status;
nothing else changes (R252). -/
def Obligations.CommitRestartsTheFabric : Prop :=
  ∀ (s : State) (ts : List (PerDir Table)), ts.length = cellCount s.params →
    ∃ es : PerDir EdgeState,
      exec (.commit ts) s = .next { s with
        lut := ts, cur := List.replicate s.cur.length 0, t := 0, edges := es,
        bstat := ⟨false, 0, 0, .none⟩, reported := none } ∧
      ∀ e, es.get e = { s.edge e with
        half0 := List.replicate (s.edge e).half0.length 0, half1 := List.replicate (s.edge e).half1.length 0,
        rxNext := 0, tx := [], substituted := false }

/-- BITSTREAM_HEADER, the decode and commit of a complete upload's bytes, ends in the COMMIT of its tables or in the report of
its failing check; on a halted tile it changes nothing and sends nothing (R264); and it is what the next step of a tile does whose upload holds those bytes and whose next frame is APPLY
(log 22, log 2). -/
def Obligations.BitstreamHeaderIsAppliedWhole : Prop :=
  ∀ (s : State) (seq : BitVec 16) (hd : BitstreamHeader) (payload : Bytes),
    (s.halted = true → exec (.bitstreamHeader seq hd payload) s = .next s) ∧
    (∀ ts, s.halted = false → decodeUpload s.params (encodeBitstream hd payload) = .tables ts →
      ∃ t, exec (.bitstreamHeader seq hd payload) s = .next t ∧ exec (.commit ts) s = .next t) ∧
    (∀ code, s.halted = false → decodeUpload s.params (encodeBitstream hd payload) = .fail code →
      exec (.bitstreamHeader seq hd payload) s = .next (s.afterError seq code)) ∧
    (s.ready → (encodeBitstream hd payload).length < 2 ^ 32 →
      step (s.withMessage (.bitstream seq) (encodeBitstream hd payload)) =
        exec (.bitstreamHeader seq hd payload) { s with session := true, upload := none })

/-! ### Data and ending commands -/

/-- SET_INPUTS with declared names only writes each register to the value of the last entry that names it, modulo two to its
width, and nothing else; with an undeclared name it changes no input (R253). -/
def Obligations.SetInputsWritesMaskedValues : Prop :=
  ∀ (s : State) (seq : BitVec 16) (es : List TlvEntry), s.readyInSession →
    s.ins.map Prod.fst = s.inDecl.map Prod.fst →
    ((∃ e ∈ es, s.inWidth e.name = none) →
      exec (.setInputs seq es) s = .next (s.afterError seq .undeclaredName)) ∧
    ((∀ e ∈ es, s.inWidth e.name ≠ none) →
      ∃ ins : List (VarName × BitVec 64), exec (.setInputs seq es) s = .next { s with ins := ins } ∧
        ins.map Prod.fst = s.ins.map Prod.fst ∧
        ∀ n w, s.inWidth n = some w → lookupName n ins =
          match (es.filter fun e => decide (e.name = n)).getLast? with
          | some e => some (BitVec.ofNat 64 (e.value.toNat % 2 ^ w))
          | none => lookupName n s.ins)

/-- STEP n sets the ticks to run, and the fabric then runs exactly n of them where no linked edge misses a frame: with no linked
edge, and on a tile whose linked neighbours' frames for these ticks have been accepted (R254; 42_seam_barrier.md R218). -/
def Obligations.StepRunsItsTicks : Prop :=
  ∀ (s : State) (seq : BitVec 16) (ticks : BitVec 32), s.readyInSession →
    exec (.step seq ticks) s = .next { s with pending := ticks.toNat } ∧
    (s.framesFor ticks.toNat →
      ∃ t, runTicks ticks.toNat { s with pending := ticks.toNat } = .next t ∧
        t.t = s.t + ticks.toNat ∧ t.pending = 0 ∧ exec .tick t = .next t)

/-- GET_OUTPUTS answers the request's names in their order, or every declared name in bytewise order, bit i of each value being
the committed output its tap i names and the bits above its width 0; it refuses undeclared names and a reply above 65535 bytes,
and changes no state of the tile (R255). -/
def Obligations.GetOutputsReadsTheTaps : Prop :=
  ∀ (s : State) (seq : BitVec 16) (sel : List TlvEntry), s.readyInSession →
    ∃ names : List VarName,
      (sel ≠ [] → names = sel.map TlvEntry.name) ∧
      (sel = [] → names.Perm (s.outDecl.map Prod.fst) ∧
        names.Pairwise fun a b => a.map BitVec.toNat ≤ b.map BitVec.toNat) ∧
      ((∃ n ∈ names, s.outTaps n = none) →
        exec (.getOutputs seq sel) s = .next (s.afterError seq .undeclaredName)) ∧
      ((∀ n ∈ names, s.outTaps n ≠ none) → 65535 < (names.map fun n => 9 + n.length).sum →
        exec (.getOutputs seq sel) s = .next (s.afterError seq .replyTooLarge)) ∧
      ((∀ n ∈ names, s.outTaps n ≠ none) → (names.map fun n => 9 + n.length).sum ≤ 65535 →
        ∃ entries : List TlvEntry,
          exec (.getOutputs seq sel) s = .next { s with hostOut := s.hostOut ++ [.outputs seq entries] } ∧
          entries.map TlvEntry.name = names ∧
          ∀ en ∈ entries, ∀ taps, s.outTaps en.name = some taps → taps.length ≤ 64 → ∀ i,
            en.value.getLsbD i =
              match taps[i]? with
              | some tap => s.outAt tap.c tap.d
              | none => false)

/-- QUIT and SHUTDOWN cancel the remaining ticks, clear the barrier status, close the session and drop the upload, also while a
STEP runs; SHUTDOWN halts the tile besides (R257, R258). -/
def Obligations.QuitAndShutdownEndTheSession : Prop :=
  ∀ (s : State) (seq : BitVec 16), s.halted = false → s.session = true →
    exec (.quit seq) s = .next { s with
      pending := 0, bstat := ⟨false, 0, 0, .none⟩, session := false, upload := none } ∧
    exec (.shutdown seq) s = .next { s with
      pending := 0, bstat := ⟨false, 0, 0, .none⟩, session := false, upload := none, halted := true }

/-- A halted tile: a delivered frame is queued and never taken, and no control step, seam frame, tick, stall report or substitution
changes anything or sends anything; only a launch leaves this state (R264). That the frame is appended to Q is log 26 (R240 and
95_test_vectors.md §2.9), and that a step which is not enabled leaves the state equal is log 8. -/
def Obligations.HaltedTileOnlyQueues : Prop :=
  ∀ (s : State), s.halted = true →
    (∀ frame, perform (.deliver frame) s = .next { s with q := s.q ++ [frame] }) ∧
    (∀ (ev : Event), (∀ p g, ev ≠ .launch p g) → ∃ t, perform ev s = .next t ∧ t.halted = true) ∧
    ∀ (ev : Event), (∀ p g, ev ≠ .launch p g) → (∀ frame, ev ≠ .deliver frame) →
      (∀ e epoch phase, ev ≠ .resend e epoch phase) → perform ev s = .next s

/-- LINK of an unlinked edge with a neighbour, at t = 0, links it with cleared halves, count and retention and answers LINK_ACK;
its checks refuse in order and change nothing (R259; 42_seam_barrier.md R222). -/
def Obligations.LinkStartsAnEdge : Prop :=
  ∀ (s : State) (seq : BitVec 16) (edge : Byte), s.readyInSession → s.params.features.getLsbD 0 = true →
    (3 < edge.toNat → exec (.link seq edge) s = .next (s.afterError seq .badEdge)) ∧
    ∀ e : Dir, edge.toNat = e.code →
      (hasNeighbour s.params e = false → exec (.link seq edge) s = .next (s.afterError seq .badEdge)) ∧
      (hasNeighbour s.params e = true → s.t ≠ 0 →
        exec (.link seq edge) s = .next (s.afterError seq .linkNotAtStart)) ∧
      (hasNeighbour s.params e = true → s.t = 0 → (s.edge e).linked = true →
        exec (.link seq edge) s = .next (s.afterError seq .alreadyLinked)) ∧
      (hasNeighbour s.params e = true → s.t = 0 → (s.edge e).linked = false →
        exec (.link seq edge) s = .next { s with
          edges := s.edges.set e { s.edge e with
            linked := true, rxNext := 0, tx := [],
            half0 := List.replicate (s.edge e).half0.length 0, half1 := List.replicate (s.edge e).half1.length 0 },
          hostOut := s.hostOut ++ [.linkAck seq edge 1] })

/-- UNLINK of a linked edge unlinks it and drops its retained frames, keeps its halves and count, and answers LINK_ACK; its checks
refuse in order and change nothing (R260; 42_seam_barrier.md R224). -/
def Obligations.UnlinkFreezesAnEdge : Prop :=
  ∀ (s : State) (seq : BitVec 16) (edge : Byte), s.readyInSession → s.params.features.getLsbD 0 = true →
    (3 < edge.toNat → exec (.unlink seq edge) s = .next (s.afterError seq .badEdge)) ∧
    ∀ e : Dir, edge.toNat = e.code →
      ((s.edge e).linked = false → exec (.unlink seq edge) s = .next (s.afterError seq .notLinked)) ∧
      ((s.edge e).linked = true → exec (.unlink seq edge) s = .next { s with
        edges := s.edges.set e { s.edge e with linked := false, tx := [] },
        hostOut := s.hostOut ++ [.linkAck seq edge 0] })

/-- Frames of block-to-host types are answered with UNEXPECTED_TYPE, those of types outside the opcode map with UNKNOWN_TYPE, and
so are LINK and UNLINK where FEATURES bit 0 is 0; the decoder reads each such type as such a frame, whatever its payload
(R243; 30_encoding.md R128). -/
def Obligations.OtherTypesAreAnswered : Prop :=
  (∀ (s : State) (seq : BitVec 16), s.ready →
    (∀ p, exec (.outputs seq p) s = .next (s.afterError seq .unexpectedType)) ∧
    (∀ p, exec (.linkAck seq p) s = .next (s.afterError seq .unexpectedType)) ∧
    (∀ p, exec (.error seq p) s = .next (s.afterError seq .unexpectedType)) ∧
    (∀ type p, exec (.unknownType seq type p) s = .next (s.afterError seq .unknownType)) ∧
    (s.params.features.getLsbD 0 = false → ∀ edge,
      exec (.link seq edge) s = .next (s.afterError seq .unknownType) ∧
      exec (.unlink seq edge) s = .next (s.afterError seq .unknownType))) ∧
  ∀ (seq : BitVec 16) (type : Byte) (p : Bytes),
    (1 ≤ type.toNat ∧ type.toNat ≤ 6 ∨ 8 ≤ type.toNat ∧ type.toNat ≤ 0x0B → ∀ type' p',
      decodePayload seq type p ≠ .instr (.unknownType seq type' p') ∧ decodePayload seq type p ≠ .instr (.outputs seq p') ∧
      decodePayload seq type p ≠ .instr (.linkAck seq p') ∧ decodePayload seq type p ≠ .instr (.error seq p')) ∧
    (type = 0x07 → decodePayload seq type p = .instr (.outputs seq p)) ∧
    (type = 0x0C → decodePayload seq type p = .instr (.linkAck seq p)) ∧
    (type = 0x7F → decodePayload seq type p = .instr (.error seq p)) ∧
    (type.toNat = 0 ∨ 0x0D ≤ type.toNat ∧ type.toNat ≤ 0x7E ∨ 0x80 ≤ type.toNat →
      decodePayload seq type p = .instr (.unknownType seq type p))

/-! ### LUT evaluation (40_lut_eval.md) -/

/-- EVAL_LUT(T, idx) = (T >> idx) & 1 (R140), returned in the model's value field (log 7). -/
def Obligations.EvalLutShiftsTheTable : Prop :=
  ∀ (s : State) (table : Table) (idx : Nibble),
    exec (.evalLut table idx) s = .next { s with value := ((table >>> idx.toNat) &&& 1).setWidth 4 }

/-- RESOLVE gives each form of source its value: 0, the constant, the bit of the input register, the committed output of an
in-region producer, the seam read of one across an edge (R141); state is only read. -/
def Obligations.ResolveEachForm : Prop :=
  ∀ (s : State),
    exec (.resolve .unwired) s = .next { s with value := 0 } ∧
    (∀ v, exec (.resolve (.const v)) s = .next { s with value := if v then 1 else 0 }) ∧
    (∀ n b w, s.inWidth n = some w → b < w →
      exec (.resolve (.input n b)) s = .next { s with value := if (s.inValue n).getLsbD b then 1 else 0 }) ∧
    (∀ c out, inRegion s.params c = true →
      exec (.resolve (.cell c out)) s = .next { s with value := if s.outAt c out then 1 else 0 }) ∧
    (∀ e k out, s.params.valid = true → hasNeighbour s.params e = true → k < laneCount s.params e →
      ∃ t, exec (.resolve (.cell (ncell s.params e k) out)) s = .next t ∧
        exec (.seamRead (ncell s.params e k) out) s = .next t)

/-- INDEX assembles the four pin values N, E, S, W at bits 0, 1, 2, 3 (R142; 30_encoding.md R92). -/
def Obligations.IndexWeighsThePins : Prop :=
  ∀ (s : State) (c : Coord), inRegion s.params c = true →
    ∃ v : Nibble, exec (.index c) s = .next { s with value := v } ∧
      v.toNat = (s.resolve (s.srcAt c .north)).toNat + 2 * (s.resolve (s.srcAt c .east)).toNat
        + 4 * (s.resolve (s.srcAt c .south)).toNat + 8 * (s.resolve (s.srcAt c .west)).toNat

/-- EVAL_CELL writes nxt of its cell only: bit d is the table of output d at the cell's index (R143). -/
def Obligations.EvalCellWritesItsNextBits : Prop :=
  ∀ (s : State) (c : Coord), inRegion s.params c = true → s.nxt.length = cellCount s.params →
    ∃ t, exec (.evalCell c) s = .next t ∧ t = { s with nxt := t.nxt } ∧
      (∀ d : Dir, (t.nxtAt c).getLsbD d.code = (s.lutAt c d).getLsbD
        ((s.resolve (s.srcAt c .north)).toNat + 2 * (s.resolve (s.srcAt c .east)).toNat
          + 4 * (s.resolve (s.srcAt c .south)).toNat + 8 * (s.resolve (s.srcAt c .west)).toNat)) ∧
      ∀ c', inRegion s.params c' = true → c' ≠ c → t.nxtAt c' = s.nxtAt c'

/-- A cell whose output D has the table FWD(P) forwards pin P to output D; the four tables are the canonical constants
(R154, R155). -/
def Obligations.ForwardingTablesForward : Prop :=
  (fwd .north = 0xAAAA ∧ fwd .east = 0xCCCC ∧ fwd .south = 0xF0F0 ∧ fwd .west = 0xFF00) ∧
  ∀ (s : State) (c : Coord) (p d : Dir), inRegion s.params c = true → s.nxt.length = cellCount s.params →
    s.lutAt c d = fwd p →
    ∃ t, exec (.evalCell c) s = .next t ∧ (t.nxtAt c).getLsbD d.code = s.resolve (s.srcAt c p)

/-- A coordinate the Program does not list launches with four zero tables, four unwired pins and outputs 0; outputs 0 over zero
tables stay 0 through any number of ticks, so a source naming the cell reads 0 (R144). -/
def Obligations.AbsentCellsStayZero : Prop :=
  (∀ (p : Params) (g : Program) (s : State) (c : Coord),
    p.valid = true → g.keysDistinct = true → admissionError p g = none → inRegion p c = true →
    (∀ r ∈ g.cells, r.coord ≠ c) →
    ∃ t, exec (.reset p g) s = .next t ∧ t.curAt c = 0 ∧ ∀ d, t.lutAt c d = 0 ∧ t.srcAt c d = .unwired) ∧
  ∀ (n : Nat) (s : State) (c : Coord), inRegion s.params c = true → (∀ d, s.lutAt c d = 0) → s.curAt c = 0 →
    ∃ t, runTicks n s = .next t ∧ t.curAt c = 0 ∧ ∀ d, t.resolve (.cell c d) = false

/-! ### The tick (41_tick.md) -/

/-- TICK where it is enabled: the cells of the tick's parity get the outputs their tables give at the pre-tick index, the cells of
the other parity hold, nxt and cur agree, the counters move by one, the barrier status and the report mark are cleared; one frame
built from the new outputs goes out on each linked edge, in edge order, and is retained among the edge's last two; nothing else
changes (R170, R173; 42_seam_barrier.md R207). -/
def Obligations.TickUpdatesOneParity : Prop :=
  ∀ (s : State), s.halted = false → 0 < s.pending →
    (∀ e, (s.edge e).linked = true → s.t ≤ (s.edge e).rxNext) →
    ∃ t, exec .tick s = .next t ∧
      t = { s with
        nxt := t.cur, cur := t.cur, edges := t.edges, seamOut := t.seamOut, t := s.t + 1, pending := s.pending - 1,
        bstat := ⟨false, 0, 0, .none⟩, reported := none } ∧
      (∀ c d, inRegion s.params c = true → c.parity = s.t % 2 →
        (t.curAt c).getLsbD d.code = (s.lutAt c d).getLsbD
          ((s.resolve (s.srcAt c .north)).toNat + 2 * (s.resolve (s.srcAt c .east)).toNat
            + 4 * (s.resolve (s.srcAt c .south)).toNat + 8 * (s.resolve (s.srcAt c .west)).toNat)) ∧
      (∀ c, inRegion s.params c = true → c.parity ≠ s.t % 2 → t.curAt c = s.curAt c) ∧
      t.seamOut = s.seamOut ++ (([.north, .east, .south, .west] : List Dir).filter fun e => (s.edge e).linked).map
        (fun e => (e, encodeSeam (t.frameOf e s.t))) ∧
      ∀ e, t.edge e =
        if (s.edge e).linked = true then
          let sent := (s.edge e).tx ++ [(s.t, encodeSeam (t.frameOf e s.t))]
          { s.edge e with tx := sent.drop (sent.length - 2) }
        else s.edge e

/-- An operation that is not enabled does not happen: the model's form of "enabled when" (log 8). A tick of a halted tile, with no
ticks pending, or while a linked edge's frame is missing; a stall with the barrier open, or reported and shown by the status
(log 9); a substitution under STALL or on an edge that misses nothing; a cycle from an odd tick count. -/
def Obligations.DisabledOperationsDoNothing : Prop :=
  ∀ (s : State),
    ((s.halted = true ∨ s.pending = 0 ∨ ∃ e, (s.edge e).linked = true ∧ (s.edge e).rxNext < s.t) →
      exec .tick s = .next s) ∧
    ((s.halted = true ∨ s.pending = 0 ∨ (∀ e, (s.edge e).linked = true → s.t ≤ (s.edge e).rxNext) ∨
      s.reported = some s.t ∧ s.bstat.blocked = true) → exec .stall s = .next s) ∧
    (∀ e, (s.params.policy = .stall ∨ s.halted = true ∨ s.pending = 0 ∨ (s.edge e).linked = false ∨
      s.t ≤ (s.edge e).rxNext) → exec (.substituteHeld e) s = .next s) ∧
    (s.t % 2 = 1 → exec .cycle s = .next s)

/-- CYCLE from an even tick count, with linked edges or without: where tick A can run it is tick A, which moves even cells only, and
then, where tick B can run too, tick B, which moves odd cells only (R175); where tick B cannot run, with no tick left or a
neighbour's frame missing, the cycle ends after tick A (log 18). -/
def Obligations.CycleIsTickAThenTickB : Prop :=
  ∀ (s : State), s.t % 2 = 0 → s.halted = false → 0 < s.pending → s.framesFor 1 →
    ∃ u, exec .tick s = .next u ∧ u.t = s.t + 1 ∧ u.pending + 1 = s.pending ∧
      (∀ c, inRegion s.params c = true → c.parity = 1 → u.curAt c = s.curAt c) ∧
      (1 < s.pending → s.framesFor 2 →
        ∃ t, exec .tick u = .next t ∧ exec .cycle s = .next t ∧ t.t = s.t + 2 ∧ t.pending + 2 = s.pending ∧
          ∀ c, inRegion s.params c = true → c.parity = 0 → t.curAt c = u.curAt c) ∧
      (s.pending = 1 ∨ ¬s.framesFor 2 → exec .cycle s = .next u)

/-- EVALUATE_VECTOR on a tile between STEPs with no linked edge: every command is well formed; together they set every declared input
to its value modulo two to its width, run 2·latency ticks, the full cycles of the Program's latency, and end in the answer to the
one GET_OUTPUTS (R179). How long lists and counts are split into commands is the model's choice (log 33). -/
def Obligations.VectorEvaluationRunsItsCycles : Prop :=
  ∀ (s : State) (seq : BitVec 16) (values : VarName → BitVec 64), s.Inv → s.readyInSession →
    (∀ e, (s.edge e).linked = false) →
    (∀ i ∈ evaluateVector seq values s, i.wf = true) ∧
    ∃ (ins : List (VarName × BitVec 64)) (u t : State) (last : BitVec 16),
      ins.map Prod.fst = s.inDecl.map Prod.fst ∧
      (∀ n w, s.inWidth n = some w → lookupName n ins = some (BitVec.ofNat 64 ((values n).toNat % 2 ^ w))) ∧
      runTicks (2 * s.latency) { s with ins := ins, pending := 2 * s.latency } = .next u ∧
      u.t = s.t + 2 * s.latency ∧ u.pending = 0 ∧
      (evaluateVector seq values s).getLast? = some (.getOutputs last []) ∧
      exec (.getOutputs last []) u = .next t ∧ runCommands (evaluateVector seq values s) s = .next t

/-- ROUTE4 chain timing: a value put in front of a chain of L forwarding cells in a steady state stands at its end after exactly
L + δ ticks and not before, δ being 0 where the first cell's parity is that of the next tick; so from an even tick count it
takes ceil(L/2) full cycles for an even first cell and ceil((L+1)/2) for an odd one (R178). -/
def Obligations.RouteChainTiming : Prop :=
  ∀ (s : State) (l : Nat) (c : Nat → Coord) (p d : Nat → Dir) (n : VarName) (b : Nat) (w v : Bool),
    1 ≤ l →
    (∀ k, k < l → inRegion s.params (c k) = true ∧ s.lutAt (c k) (d k) = fwd (p k)) →
    (∀ k, k + 1 < l → (c (k + 1)).adjacent (c k) = true ∧ s.srcAt (c (k + 1)) (p (k + 1)) = .cell (c k) (d k)) →
    s.srcAt (c 0) (p 0) = .input n b → (s.inValue n).getLsbD b = v → v ≠ w →
    (∀ k, k < l → s.outAt (c k) (d k) = w) →
    (∀ m, s.runsFree m → ∃ t, runTicks m s = .next t ∧
      (t.outAt (c (l - 1)) (d (l - 1)) = v ↔ l + (if (c 0).parity = s.t % 2 then 0 else 1) ≤ m)) ∧
    (s.t % 2 = 0 → ∀ cycles, s.runsFree (2 * cycles) → ∃ t, runTicks (2 * cycles) s = .next t ∧
      ((c 0).parity = 0 → (t.outAt (c (l - 1)) (d (l - 1)) = v ↔ (l + 1) / 2 ≤ cycles)) ∧
      ((c 0).parity = 1 → (t.outAt (c (l - 1)) (d (l - 1)) = v ↔ (l + 2) / 2 ≤ cycles)))

/-- Propagation bound: two fabrics that differ only in the outputs of one cell agree, after m ticks, at every distance above m
from it; two that differ only in their input registers agree, after m ticks, at every cell at distance m or more from each cell
that reads a bit they differ in (R177). -/
def Obligations.SignalsMoveOneStepPerTick : Prop :=
  (∀ (s : State) (cur : List Nibble) (c₀ : Coord) (m : Nat), s.Inv → s.runsFree m →
    (∀ c, inRegion s.params c = true → c ≠ c₀ → State.curAt { s with cur := cur } c = s.curAt c) →
    ∃ t t', runTicks m s = .next t ∧ runTicks m { s with cur := cur } = .next t' ∧
      ∀ c, inRegion s.params c = true → m < c₀.dist c → t'.curAt c = t.curAt c) ∧
  ∀ (s : State) (ins : List (VarName × BitVec 64)) (m : Nat), s.Inv → s.runsFree m →
    ∃ t t', runTicks m s = .next t ∧ runTicks m { s with ins := ins } = .next t' ∧
      ∀ c, inRegion s.params c = true →
        (∀ r pin n b, inRegion s.params r = true → s.srcAt r pin = .input n b →
          (s.inValue n).getLsbD b ≠ (State.inValue { s with ins := ins } n).getLsbD b → m ≤ r.dist c) →
        t'.curAt c = t.curAt c

/-- A ring of an inverter and a forwarding cell oscillates with a period of four ticks (R186): every two ticks flip it. -/
def Obligations.InverterRingPeriodFour : Prop :=
  ∀ (s : State) (a b : Coord) (pa pb da db : Dir), s.runsFree 4 →
    inRegion s.params a = true → inRegion s.params b = true → a.adjacent b = true →
    s.lutAt a da = tableOf (fun idx => !idx.getLsbD pa.code) → s.srcAt a pa = .cell b db →
    s.lutAt b db = fwd pb → s.srcAt b pb = .cell a da → a.parity = s.t % 2 →
    ∃ u t, runTicks 2 s = .next u ∧ runTicks 4 s = .next t ∧
      u.outAt a da = !s.outAt b db ∧ u.outAt b db = !s.outAt b db ∧
      t.outAt a da = s.outAt b db ∧ t.outAt b db = s.outAt b db

/-! ### Seams (42_seam_barrier.md) -/

/-- The edges and lanes of R202: which edges have a neighbour, the edge cell of each lane and its parity, the neighbour cell and its
parity, half of the lanes in each parity, and the facing tile's numbering of the same lanes. -/
def Obligations.LanesAndTheirParities : Prop :=
  ∀ (p : Params), p.valid = true →
    (hasNeighbour p .north = true ↔ 0 < p.originY) ∧ (hasNeighbour p .east = true ↔ p.originX + p.tileW < p.gridW) ∧
    (hasNeighbour p .south = true ↔ p.originY + p.tileH < p.gridH) ∧ (hasNeighbour p .west = true ↔ 0 < p.originX) ∧
    (∀ e, laneCount p e = if e = .north ∨ e = .south then p.tileW else p.tileH) ∧
    (∀ e k, k < laneCount p e →
      ecell p e k = (match e with
        | .north => ⟨p.originX + k, p.originY⟩
        | .south => ⟨p.originX + k, p.originY + p.tileH - 1⟩
        | .west => ⟨p.originX, p.originY + k⟩
        | .east => ⟨p.originX + p.tileW - 1, p.originY + k⟩) ∧
      (ecell p e k).parity = (if e = .north ∨ e = .west then k % 2 else (k + 1) % 2) ∧
      ncell p e k = (ecell p e k).step e ∧ (ncell p e k).parity = 1 - (ecell p e k).parity ∧
      inRegion p (ecell p e k) = true ∧ inRegion p (ncell p e k) = false) ∧
    (∀ e q, q ≤ 1 → (sendLanes p e q).length = laneCount p e / 2 ∧ recvLanes p e q = sendLanes p e (1 - q)) ∧
    ∀ e p', p'.valid = true → facing p e p' = true →
      laneCount p' e.opp = laneCount p e ∧ ∀ k, k < laneCount p e → ncell p e k = ecell p' e.opp k

/-- A seam reference, an in-grid coordinate outside the region adjacent to a cell of it, is the neighbour cell of exactly one edge
and lane, whose edge cell is that cell (R203). -/
def Obligations.SeamReferencesHaveOneLane : Prop :=
  ∀ (p : Params) (c c' : Coord), p.valid = true → inRegion p c = true → inRegion p c' = false → inGrid p c' = true →
    c.adjacent c' = true →
    ∃ e k, seamLane p c' = some (e, k) ∧ k < laneCount p e ∧ ecell p e k = c ∧ ncell p e k = c' ∧
      ∀ e' k', k' < laneCount p e' → ncell p e' k' = c' → e' = e ∧ k' = k

/-- EMIT_FRAME on a linked edge sends one seam frame and retains it: the frame decodes to the sender's edge, the phase and epoch of
its tick and the lanes of that parity in increasing order, half of the edge, each with its edge cell's four committed outputs
(R205, R207, R208). -/
def Obligations.EmittedFrameCarriesItsLanes : Prop :=
  ∀ (s : State) (e : Dir) (f : Nat), s.params.valid = true → s.halted = false → (s.edge e).linked = true →
    ∃ (bytes : Bytes) (fr : SeamFrame),
      (let sent := (s.edge e).tx ++ [(f, bytes)]
       exec (.emitFrame e f) s = .next { s with
         edges := s.edges.set e { s.edge e with tx := sent.drop (sent.length - 2) },
         seamOut := s.seamOut ++ [(e, bytes)] }) ∧
      decodeSeam bytes = some fr ∧ bytes.getD 7 0 = 0 ∧
      fr.edge.toNat = e.code ∧ fr.phase.toNat = f % 2 ∧ fr.epoch.toNat = f / 2 % 2 ^ 32 ∧
      fr.lanes.length = laneCount s.params e / 2 ∧
      fr.lanes.map (fun l => l.lane.toNat) =
        (List.range (laneCount s.params e)).filter (fun k => decide ((ecell s.params e k).parity = f % 2)) ∧
      ∀ l ∈ fr.lanes, ∀ d : Dir, l.value.getLsbD d.code = s.outAt (ecell s.params e l.lane.toNat) d

/-- RESEND of a retained frame sends a frame with the requested epoch and phase again, byte for byte, and changes no state of the
tile; a request for a frame that is not retained does nothing (R209). EMIT_FRAME on an edge that is not linked and both operations
of a halted tile do nothing (log 27). -/
def Obligations.ResendRepeatsARetainedFrame : Prop :=
  ∀ (s : State) (e : Dir),
    ((s.halted = true ∨ (s.edge e).linked = false) → ∀ f, exec (.emitFrame e f) s = .next s) ∧
    (s.halted = true → ∀ epoch phase, exec (.resend e epoch phase) s = .next s) ∧
    (s.halted = false → ∀ (epoch : BitVec 32) (phase : Byte),
      ((∃ r ∈ (s.edge e).tx, memRead r.2 8 4 = epoch.toNat ∧ memRead r.2 6 1 = phase.toNat) →
        ∃ r ∈ (s.edge e).tx, memRead r.2 8 4 = epoch.toNat ∧ memRead r.2 6 1 = phase.toNat ∧
          exec (.resend e epoch phase) s = .next { s with seamOut := s.seamOut ++ [(e, r.2)] }) ∧
      ((∀ r ∈ (s.edge e).tx, ¬(memRead r.2 8 4 = epoch.toNat ∧ memRead r.2 6 1 = phase.toNat)) →
        exec (.resend e epoch phase) s = .next s))

/-- SEAM_RECEIVE of the expected frame accepts it: the frame's lane values go into the half of its phase, every other lane of
either half keeps its value, the receive count grows by one, a blocked status clears once the barrier holds, and nothing else
changes (R216). That the status keeps its value, the mask included, while another edge is missing is the model's reading (log 31). -/
def Obligations.ExpectedFrameIsAccepted : Prop :=
  ∀ (s : State) (e : Dir) (bytes : Bytes) (f : SeamFrame), s.halted = false → (s.edge e).linked = true →
    (s.edge e).half0.length = laneCount s.params e → (s.edge e).half1.length = laneCount s.params e →
    decodeSeam bytes = some f → f.edge.toNat = e.opp.code → f.phase.toNat = (s.edge e).rxNext % 2 →
    f.epoch = BitVec.ofNat 32 ((s.edge e).rxNext / 2) →
    f.lanes.map (fun l => l.lane.toNat) = recvLanes s.params e f.phase.toNat →
    ∃ t, exec (.seamReceive e bytes) s = .next t ∧
      t = { s with
        edges := s.edges.set e { s.edge e with
          half0 := (t.edge e).half0, half1 := (t.edge e).half1, rxNext := (s.edge e).rxNext + 1 },
        bstat := t.bstat } ∧
      (∀ l ∈ f.lanes, (t.edge e).half f.phase.toNat l.lane.toNat = l.value) ∧
      (∀ q k, q ≤ 1 → (q ≠ f.phase.toNat ∨ k ∉ f.lanes.map (fun l => l.lane.toNat)) →
        (t.edge e).half q k = (s.edge e).half q k) ∧
      (s.bstat.blocked = true → (∀ e', (t.edge e').linked = true → s.t ≤ (t.edge e').rxNext) →
        t.bstat = ⟨false, 0, 0, .none⟩) ∧
      ((s.bstat.blocked = false ∨ ∃ e', (t.edge e').linked = true ∧ (t.edge e').rxNext < s.t) → t.bstat = s.bstat)

/-- The verdict on every other delivered string: no change where the tile is halted or the edge not linked; else the first that
applies of corrupt, duplicate, epoch mismatch and phase mismatch, which is counted on its edge, becomes the reason of a blocked
status that waits for the edge, and is reported, with no other change (R210 to R215, R217). -/
def Obligations.RejectedFrameIsCountedAndReported : Prop :=
  ∀ (s : State) (e : Dir) (bytes : Bytes),
    let n := memRead bytes 12 2
    let x := (s.edge e).rxNext
    let epoch := memRead bytes 8 4
    let phase := memRead bytes 6 1
    let corrupt : Prop := bytes.length < 18 ∨ bytes.take 4 ≠ [0x42, 0x47, 0x53, 0x46] ∨ bytes.length ≠ 18 + 3 * n ∨
      memRead bytes (14 + 3 * n) 4 ≠ (crc32 ((bytes.drop 4).take (10 + 3 * n))).toNat ∨ memRead bytes 4 1 ≠ 1 ∨
      memRead bytes 5 1 ≠ e.opp.code ∨ 1 < phase ∨
      (List.range n).map (fun i => memRead bytes (14 + 3 * i) 2) ≠ recvLanes s.params e phase
    let duplicate : Prop := 0 < x ∧ epoch = (x - 1) / 2 % 2 ^ 32 ∧ phase = (x - 1) % 2
    let rejected : FaultKind → Host.Outcome State Fault Refusal := fun k =>
      .next (State.afterReport { s with
        edges := s.edges.set e { s.edge e with fcount := (s.edge e).fcount.bump k },
        bstat := if s.bstat.blocked = true ∧ s.bstat.edgeMask.getLsbD e.code = true then
          { s.bstat with reason := k.reason } else s.bstat } k.errorCode)
    ((s.halted = true ∨ (s.edge e).linked = false) → exec (.seamReceive e bytes) s = .next s) ∧
    (s.halted = false → (s.edge e).linked = true →
      (corrupt → exec (.seamReceive e bytes) s = rejected .frameCorrupt) ∧
      (¬corrupt → duplicate → exec (.seamReceive e bytes) s = rejected .duplicate) ∧
      (¬corrupt → ¬duplicate → epoch ≠ x / 2 % 2 ^ 32 → exec (.seamReceive e bytes) s = rejected .epochMismatch) ∧
      (¬corrupt → ¬duplicate → epoch = x / 2 % 2 ^ 32 → phase ≠ x % 2 →
        exec (.seamReceive e bytes) s = rejected .phaseMismatch))

/-- SEAM_FRAME, the arrival of a frame at a port, is the SEAM_RECEIVE of the frame's encoding there (30_encoding.md R130, R131; the
row's port operand is the model's, log 21); both end in a next state, and the expected frame's lanes are then in the half of its
phase and the count one higher. -/
def Obligations.SeamFrameIsReceivedFromItsBytes : Prop :=
  ∀ (s : State) (port : Dir) (f : SeamFrame), f.lanes.length < 65536 →
    ∃ t, exec (.seamFrame port f) s = .next t ∧ exec (.seamReceive port (encodeSeam f)) s = .next t ∧
      (s.halted = false → (s.edge port).linked = true →
        (s.edge port).half0.length = laneCount s.params port → (s.edge port).half1.length = laneCount s.params port →
        f.edge.toNat = port.opp.code → f.phase.toNat = (s.edge port).rxNext % 2 →
        f.epoch = BitVec.ofNat 32 ((s.edge port).rxNext / 2) →
        f.lanes.map (fun l => l.lane.toNat) = recvLanes s.params port f.phase.toNat →
        (t.edge port).rxNext = (s.edge port).rxNext + 1 ∧
        ∀ l ∈ f.lanes, (t.edge port).half f.phase.toNat l.lane.toNat = l.value)

/-- STALL of a blocked tick enters the blocked state: the mask holds the linked edges whose frame is missing, awaited is the tick
index before, the reason MISSING. Where the tick has not been reported, the report is sent while a session is open and the mark is
this tick; where it has, and the status does not show the block, only the status is set (log 9). After either it is not enabled
again in this tick (R219). -/
def Obligations.StallReportsOncePerTick : Prop :=
  ∀ (s : State), s.halted = false → 0 < s.pending → (∃ e, (s.edge e).linked = true ∧ (s.edge e).rxNext < s.t) →
    (s.reported = some s.t → s.bstat.blocked = false) →
    ∃ (mask : Nibble) (t : State),
      exec .stall s = .next t ∧
      (∀ e, mask.getLsbD e.code = true ↔ ((s.edge e).linked = true ∧ (s.edge e).rxNext < s.t)) ∧
      (s.reported ≠ some s.t →
        t = State.afterReport { s with bstat := ⟨true, mask, s.t - 1, .missing⟩, reported := some s.t } .missing) ∧
      (s.reported = some s.t → t = { s with bstat := ⟨true, mask, s.t - 1, .missing⟩ }) ∧
      exec .stall t = .next t

/-- After STALL the status is blocked exactly while ticks are pending and the barrier of the next tick does not hold, on every tile
that meets the invariant: R41's "exactly while", seen once the fabric has looked at its barrier (10_state.md R41; 42_seam_barrier.md
R219; log 9). Ticks, accepted frames, substitutions, QUIT and SHUTDOWN keep the other direction (State.Inv). -/
def Obligations.StallShowsTheBlockedTick : Prop :=
  ∀ (s : State), s.Inv →
    ∃ t, exec .stall s = .next t ∧
      (t.bstat.blocked = true ↔ 0 < t.pending ∧ ∃ e, (t.edge e).linked = true ∧ (t.edge e).rxNext < t.t)

/-- SEAM_READ of the neighbour cell of lane k of edge e is output o of that lane in the half of the cell's parity (R220), returned
in the model's value field (log 7). -/
def Obligations.SeamReadReadsTheHalf : Prop :=
  ∀ (s : State) (e : Dir) (k : Nat) (out : Dir), s.params.valid = true → hasNeighbour s.params e = true →
    k < laneCount s.params e →
    exec (.seamRead (ncell s.params e k) out) s = .next { s with
      value := if ((if (ncell s.params e k).parity = 0 then (s.edge e).half0 else (s.edge e).half1).getD k 0).getLsbD
        out.code then 1 else 0 }

/-- SUBSTITUTE_HELD, under HOLD_LAST_GOOD and where a linked edge's frame is missing, deems the frame received, marks the edge,
reports it while a session is open, and clears the barrier status where the barrier then holds; the halves keep their values
(R221). That the status keeps its value, the mask included, while another edge is missing is the model's reading (log 31). -/
def Obligations.SubstitutionIsMarkedAndReported : Prop :=
  ∀ (s : State) (e : Dir), s.params.policy = .holdLastGood → s.halted = false → 0 < s.pending →
    (s.edge e).linked = true → (s.edge e).rxNext < s.t →
    let edges := s.edges.set e { s.edge e with rxNext := (s.edge e).rxNext + 1, substituted := true }
    ∃ b : BarrierStatus,
      exec (.substituteHeld e) s = .next (State.afterReport { s with edges := edges, bstat := b } .substituted) ∧
      ((∀ e', (edges.get e').linked = true → s.t ≤ (edges.get e').rxNext) → b = ⟨false, 0, 0, .none⟩) ∧
      ((∃ e', (edges.get e').linked = true ∧ (edges.get e').rxNext < s.t) → b = s.bstat)

/-- A seam frame can change only the halves, the receive count and the fault counters of its edge, the barrier status, and the
reports sent (60_exceptions.md R316, R307). -/
def Obligations.SeamFramesChangeSeamStateOnly : Prop :=
  ∀ (s : State) (e : Dir) (bytes : Bytes),
    ∃ t, exec (.seamReceive e bytes) s = .next t ∧
      t = { s with edges := t.edges, bstat := t.bstat, hostOut := t.hostOut, freeCount := t.freeCount } ∧
      (∀ e', e' ≠ e → t.edge e' = s.edge e') ∧
      (t.edge e).linked = (s.edge e).linked ∧ (t.edge e).tx = (s.edge e).tx ∧
      (t.edge e).substituted = (s.edge e).substituted ∧
      ((t.edge e).fcount = (s.edge e).fcount ∨
        ((t.edge e).half0 = (s.edge e).half0 ∧ (t.edge e).half1 = (s.edge e).half1 ∧
          (t.edge e).rxNext = (s.edge e).rxNext))

/-- The step of the single-grid equivalence (R226): a tile that agrees with the untiled grid on its region, on its inputs and on
the seam values its next tick reads, ticks to the same outputs there. -/
def Obligations.TileTickMatchesTheGridTick : Prop :=
  ∀ (a g : State), a.Inv → g.Inv → a.t = g.t → a.ins = g.ins → a.tickEnabled = true → g.tickEnabled = true →
    a.params.gridW = g.params.gridW → a.params.gridH = g.params.gridH →
    (∀ c, inGrid g.params c = true → inRegion g.params c = true) →
    (∀ c, inRegion a.params c = true → a.curAt c = g.curAt c ∧
      ∀ d, a.lutAt c d = g.lutAt c d ∧ a.srcAt c d = g.srcAt c d) →
    (∀ e k out, hasNeighbour a.params e = true → k < laneCount a.params e →
      (ncell a.params e k).parity ≠ a.t % 2 →
      ((a.edge e).half (ncell a.params e k).parity k).getLsbD out.code = g.outAt (ncell a.params e k) out) →
    ∃ a' g', exec .tick a = .next a' ∧ exec .tick g = .next g' ∧ a'.t = g'.t ∧
      ∀ c, inRegion a.params c = true → a'.curAt c = g'.curAt c

/-- Lockstep bound (R225): two linked tiles under the channel premise of R223 never drift apart by more than one tick, and neither
has accepted a frame the other has not sent; while neither has run 2^33 ticks, the span after which the 32-bit epoch field repeats
(the spec's own field width, R208). -/
def Obligations.LinkedTilesStayInStep : Prop :=
  ∀ (e : Dir) (a b : State), SeamPair e a b → a.t < 2 ^ 33 → b.t < 2 ^ 33 →
    (a.edge e).rxNext ≤ b.t ∧ b.t ≤ a.t + 1 ∧ (b.edge e.opp).rxNext ≤ a.t ∧ a.t ≤ b.t + 1

/-! ### The control port and the scheduler -/

/-- CONTROL_STEP takes the head frame: an unframed one is dropped and counted at any time, and a framed one waits behind a running
STEP unless it is QUIT or SHUTDOWN; a taken frame is answered with BAD_VERSION or runs the instruction it decodes to
(R241, R242, R245). -/
def Obligations.ControlStepTakesTheHeadFrame : Prop :=
  ∀ (s : State) (frame : Bytes) (rest : List Bytes), s.halted = false → s.q = frame :: rest →
    (framed frame = false → exec .controlStep s = .next { s with q := rest, protoDrops := s.protoDrops + 1 }) ∧
    (framed frame = true →
      (s.pending = 0 ∨ frameVersion frame = 1 ∧ (frameType frame = 0x08 ∨ frameType frame = 0x09) →
        (frameVersion frame ≠ 1 →
          exec .controlStep s = .next (State.afterError { s with q := rest } (frameSeq frame) .badVersion)) ∧
        ∀ i, decodeControl frame = .instr i →
          ∃ t, exec .controlStep s = .next t ∧ exec i { s with q := rest } = .next t) ∧
      (s.pending ≠ 0 → ¬(frameVersion frame = 1 ∧ (frameType frame = 0x08 ∨ frameType frame = 0x09)) →
        exec .controlStep s = .next s))

/-- Which payloads are well formed for each host-to-block type, and what a malformed one is answered with: the type and session
checks come first. A malformed QUIT or SHUTDOWN is taken and answered while a STEP runs too (R245, R241; 60_exceptions.md R312). -/
def Obligations.MalformedPayloadsAreAnswered : Prop :=
  (∀ (seq : BitVec 16) (type : Byte) (p : Bytes),
    (∃ i, decodePayload seq type p = .instr i) ↔
      (type = 0x01 → p.length = 9) ∧
      (type = 0x02 → 16 ≤ p.length ∧ memRead p 12 4 = p.length - 16) ∧
      (type = 0x03 ∨ type = 0x08 ∨ type = 0x09 → p.length = 0) ∧
      (type = 0x04 → p.length = 4) ∧
      (type = 0x05 → p ≠ [] ∧ ∃ es, decodeTlv p = some es) ∧
      (type = 0x06 → ∃ es, decodeTlv p = some es) ∧
      (type = 0x0A ∨ type = 0x0B → p.length = 1)) ∧
  ∀ (s : State) (frame : Bytes) (rest : List Bytes), s.halted = false → s.q = frame :: rest → framed frame = true →
    frameVersion frame = 1 → (s.pending = 0 ∨ frameType frame = 0x08 ∨ frameType frame = 0x09) →
    (¬∃ i, decodePayload (frameSeq frame) (frameType frame) (framePayload frame) = .instr i) →
    exec .controlStep s = .next (State.afterError { s with q := rest } (frameSeq frame)
      (if (frameType frame = 0x0A ∨ frameType frame = 0x0B) ∧ s.params.features.getLsbD 0 = false then .unknownType
       else if s.session = false ∧ frameType frame ≠ 0x01 then .noSession
       else .malformedPayload))

/-- A payload is a TLV list exactly where it is entries back to back, each a length byte of 1 to 255, the name's bytes and the
value's eight, least significant first; and it reads as one list only (30_encoding.md R113). -/
def Obligations.TlvListsReadBack : Prop :=
  ∀ (p : Bytes) (es : List TlvEntry),
    decodeTlv p = some es ↔
      (∀ t ∈ es, 1 ≤ t.name.length ∧ t.name.length ≤ 255) ∧
      p = es.flatMap fun (t : TlvEntry) =>
        BitVec.ofNat 8 t.name.length :: (t.name ++ (List.range 8).map fun i => (t.value >>> (8 * i)).setWidth 8)

/-- A step runs the decoded instruction: a control frame where the control port moves next and may take the frame, seam bytes where
a seam port moves next; and a message placed for the next step is what that step runs (log 2, log 3). -/
def Obligations.StepRunsTheDecodedInstruction : Prop :=
  (∀ (s : State) (frame : Bytes) (q : List Bytes) (rest : List Event) (i : Instr),
    s.agenda = .control :: rest → s.q = frame :: q → s.halted = false →
    (s.pending = 0 ∨ takenDuringStep frame = true) → decode .control frame = .instr i →
    step s = exec i { s with agenda := rest, q := q }) ∧
  (∀ (s : State) (e : Dir) (bytes : Bytes) (rest : List Event) (i : Instr),
    s.agenda = .seam e bytes :: rest → decode (.seam e) bytes = .instr i →
    step s = exec i { s with agenda := rest }) ∧
  ∀ (s : State) (i : Instr) (bytes : Bytes), s.ready →
    (decode .control bytes = .instr i → step (s.withMessage .control bytes) = exec i s) ∧
    ∀ e, decode (.seam e) bytes = .instr i → step (s.withMessage (.seam e) bytes) = exec i s

/-- An idle tile is unchanged by a step: no agent step planned, and no ticks pending and nothing queued, or stalled at the barrier,
its report sent and its status blocked (log 9) and no frame at the head that may be taken (60_exceptions.md R321; log 3). -/
def Obligations.IdleTileIsUnchanged : Prop :=
  ∀ (s : State), s.agenda = [] →
    (s.pending = 0 ∧ s.q = [] ∨
      0 < s.pending ∧ (∃ e, (s.edge e).linked = true ∧ (s.edge e).rxNext < s.t) ∧ s.reported = some s.t ∧
        s.bstat.blocked = true ∧
        (∀ frame rest, s.q = frame :: rest → framed frame = true ∧
          (frameVersion frame ≠ 1 ∨ frameType frame ≠ 0x08 ∧ frameType frame ≠ 0x09))) →
    step s = .next s

/-- No agent step ends in a fault, and only a launch can be refused: the block has no traps, and a tick cannot fail
(60_exceptions.md R300; 41_tick.md R170). That a launch which does not take place is a refusal, also for parameters outside R7
(parametersOutOfRange), is the model's choice (log 17). -/
def Obligations.AgentStepsComplete : Prop :=
  ∀ (ev : Event) (s : State),
    (∃ t, perform ev s = .next t) ∨
    ∃ p g, ev = .launch p g ∧
      (perform ev s = .refused .parametersOutOfRange ∨ ∃ code, perform ev s = .refused (.launchRefused code))

/-- The model's faults are those of internal operations asked for an operand outside their domain, and its refusals those of a launch
(the model's choice: log 14, log 16, log 17). -/
def Obligations.OnlyOutOfDomainOperandsStop : Prop :=
  ∀ (i : Instr) (s : State),
    (∃ t, exec i s = .next t) ∨
    (∃ c, (i = .index c ∨ i = .evalCell c) ∧ inRegion s.params c = false ∧ exec i s = .fault .coordOutsideRegion) ∨
    (∃ src, i = .resolve src ∧ s.sourceAdmitted src = false ∧ exec i s = .fault .sourceNotAdmitted) ∨
    (∃ c out, i = .seamRead c out ∧ seamLane s.params c = none ∧ exec i s = .fault .notSeamCoordinate) ∨
    (∃ ts, i = .commit ts ∧ ts.length ≠ cellCount s.params ∧ exec i s = .fault .tablesNotOfRegion) ∨
    ∃ p g, i = .reset p g ∧
      (exec i s = .refused .parametersOutOfRange ∨ ∃ code, exec i s = .refused (.launchRefused code))

/-- Every frame the block sends is a version-1 control frame with flags 0 and its message's type and sequence number, and its payload
is the message's; an ERROR carries its code and any text (43_host_commands.md R263; 30_encoding.md R110, R126). An agent step of a
tile that meets the invariant sends at most one frame to the host, and every OUTPUTS it sends is a TLV list that fits a payload
(R263; 60_exceptions.md R313). -/
def Obligations.SentFramesAreWellFormed : Prop :=
  (∀ (seq w h : BitVec 16) (v : Byte) (feat : BitVec 32),
    decode .control (HostMsg.hello seq w h v feat).bytes = .instr (.hello seq w h v feat)) ∧
  (∀ (seq : BitVec 16) (es : List TlvEntry), entriesOk es = true →
    decode .control (HostMsg.outputs seq es).bytes = .instr (.outputs seq (encodeTlv es)) ∧
      decodeTlv (encodeTlv es) = some es) ∧
  (∀ (seq : BitVec 16) (edge linked : Byte),
    decode .control (HostMsg.linkAck seq edge linked).bytes = .instr (.linkAck seq [edge, linked])) ∧
  (∀ (seq : BitVec 16) (code : ErrorCode) (k : Nat), ∃ text : Bytes,
    decode .control (HostMsg.error seq code k).bytes = .instr (.error seq (leBytes 2 code.code.toNat ++ text))) ∧
  (∀ m : HostMsg, m.bytes.getD 6 0 = 0) ∧
  ∀ (ev : Event) (s t : State), s.Inv → (∀ p g, ev ≠ .launch p g) → perform ev s = .next t →
    ∃ sent : List HostMsg, t.hostOut = s.hostOut ++ sent ∧ sent.length ≤ 1 ∧
      ∀ seq es, .outputs seq es ∈ sent → entriesOk es = true

/-! ### Launch and whole-machine rules -/

/-- RESET of parameters and a Program that pass their checks sets every element of the state to its value of R341: the configuration
the Program gives, zero outputs, inputs, counts, halves and counters, no session, upload, link or report (70_reset_and_hazards.md
R340, R341). nxt, the agenda and the number of drawn texts are the model's (log 5, log 17). -/
def Obligations.ResetSetsEveryElement : Prop :=
  ∀ (p : Params) (g : Program) (s : State), p.valid = true → g.keysDistinct = true → admissionError p g = none →
    ∃ t, exec (.reset p g) s = .next t ∧ t.params = p ∧
      (∀ r ∈ g.cells, ∀ d : Dir, (t.lutAt r.coord d).toNat = (r.outputs.getD d.code 0).toNat) ∧
      (∀ r ∈ g.cells, ∀ d : Dir, t.srcAt r.coord d = RawSource.resolved (r.pins.getD d.code .null)) ∧
      (∀ c, inRegion p c = true → (∀ r ∈ g.cells, r.coord ≠ c) → ∀ d, t.lutAt c d = 0 ∧ t.srcAt c d = .unwired) ∧
      t.inDecl = g.inputBits ∧ t.outDecl.map Prod.fst = g.outputBits.map Prod.fst ∧
      (∀ d ∈ g.outputBits, lookupName d.1 t.outDecl = some (d.2.map RawTap.tap)) ∧ t.latency = g.latency ∧
      t.cur = List.replicate (cellCount p) 0 ∧ (∀ n, t.inValue n = 0) ∧ t.t = 0 ∧ t.halted = false ∧
      t.session = false ∧ t.upload = none ∧ t.pending = 0 ∧ t.q = [] ∧
      (∀ e, (t.edge e).linked = false ∧ (∀ q k, (t.edge e).half q k = 0) ∧ (t.edge e).rxNext = 0 ∧
        (t.edge e).tx = [] ∧ (t.edge e).substituted = false ∧ (t.edge e).fcount = ⟨0, 0, 0, 0⟩) ∧
      t.bstat = ⟨false, 0, 0, .none⟩ ∧ t.protoDrops = 0 ∧ t.reported = none

/-- A Program is admitted exactly where every check of R146 to R152 holds, and a launch of any other is refused with a
DimensionError or ConfigurationError code (40_lut_eval.md R145 to R153). -/
def Obligations.LaunchAdmitsExactlyCheckedPrograms : Prop :=
  ∀ (p : Params) (g : Program) (s : State), p.valid = true → g.keysDistinct = true →
    (admissionError p g = none ↔
      (g.width = p.tileW ∧ g.height = p.tileH) ∧
      (g.cells.map CellRecord.coord).Nodup ∧
      (∀ r ∈ g.cells, inRegion p r.coord = true ∧ r.legacyOp = false ∧ r.outputs.length = 4 ∧
        (∀ v ∈ r.outputs, 0 ≤ v ∧ v ≤ 65535) ∧ r.pins.length = 4) ∧
      (∀ d ∈ g.inputBits, 1 ≤ d.2 ∧ d.2 ≤ 64 ∧ 1 ≤ d.1.length ∧ d.1.length ≤ 255) ∧
      (∀ d ∈ g.outputBits, 1 ≤ d.2.length ∧ d.2.length ≤ 64 ∧ 1 ≤ d.1.length ∧ d.1.length ≤ 255 ∧
        ∀ tap ∈ d.2, inRegion p ⟨tap.x, tap.y⟩ = true ∧ 0 ≤ tap.dir ∧ tap.dir ≤ 3) ∧
      ∀ r ∈ g.cells, ∀ src ∈ r.pins,
        match src with
        | .null => True
        | .const v => v = 0 ∨ v = 1
        | .input n b => ∃ w, (n, w) ∈ g.inputBits ∧ b < w
        | .cell x y out => inGrid p ⟨x, y⟩ = true ∧ 0 ≤ out ∧ out ≤ 3 ∧ r.coord.adjacent ⟨x, y⟩ = true
        | .other => False) ∧
    (admissionError p g ≠ none →
      ∃ code, exec (.reset p g) s = .refused (.launchRefused code) ∧
        (code.code.toNat / 256 = 2 ∨ code.code.toNat / 256 = 4))

/-- The invariant of the tile (Safety.lean: dense state, admitted selectors, masked inputs, canonical upload, sound edges, a status
that is blocked only over a pending tick) is kept by every instruction and by every step (10_state.md R22 to R45). -/
def Obligations.EveryStepKeepsTheInvariant : Prop :=
  (∀ (i : Instr) (s t : State), s.Inv → exec i s = .next t → t.Inv) ∧
  ∀ (s t : State), s.Inv → step s = .next t → t.Inv

/-- The state after reset meets the invariant of the tile. -/
def Obligations.ResetMeetsTheInvariant : Prop := State.reset.Inv

/-- What an agent step leaves of the configuration and the committed outputs: parameters, selectors, declarations and latency never
change; the tables change only where the control port takes an APPLY, and the inputs only where it takes a SET_INPUTS; the outputs
and the tick count change only by a tick or by an APPLY, which leaves them all 0 (20_memory.md R82, R83; 10_state.md R28). -/
def Obligations.OnlyTicksAndAppliesChangeTheFabric : Prop :=
  ∀ (ev : Event) (s t : State), (∀ p g, ev ≠ .launch p g) → perform ev s = .next t →
    t.params = s.params ∧ t.src = s.src ∧ t.inDecl = s.inDecl ∧ t.outDecl = s.outDecl ∧ t.latency = s.latency ∧
    (t.lut = s.lut ∨ ev = .control ∧ ∃ seq, s.headIs (.apply seq)) ∧
    (t.ins = s.ins ∨ ev = .control ∧ ∃ seq es, s.headIs (.setInputs seq es)) ∧
    ((t.cur = s.cur ∧ t.t = s.t) ∨ ev = .tick ∨
      (ev = .control ∧ (∃ seq, s.headIs (.apply seq)) ∧ t.cur = List.replicate s.cur.length 0 ∧ t.t = 0))

/-- Fault counters and the drop counter never decrease, and a substitution mark stays set unless the control port restarts the
tick count (60_exceptions.md R322). -/
def Obligations.CountersOnlyIncrease : Prop :=
  ∀ (ev : Event) (s t : State), (∀ p g, ev ≠ .launch p g) → perform ev s = .next t →
    s.protoDrops ≤ t.protoDrops ∧
    ∀ e,
      (s.edge e).fcount.frameCorrupt ≤ (t.edge e).fcount.frameCorrupt ∧
      (s.edge e).fcount.epochMismatch ≤ (t.edge e).fcount.epochMismatch ∧
      (s.edge e).fcount.phaseMismatch ≤ (t.edge e).fcount.phaseMismatch ∧
      (s.edge e).fcount.duplicate ≤ (t.edge e).fcount.duplicate ∧
      ((s.edge e).substituted = true → (t.edge e).substituted = true ∨ ev = .control ∧ t.t = 0)

/-! ### Encoding -/

/-- Decode and encode agree: every well-formed instruction that has an encoding is what the decoder of its port reads from it, for
every value of every operand (30_encoding.md R101, R110 to R131). -/
def Obligations.DecodeEncodeAgree : Prop :=
  ∀ (i : Instr) (enc : Encoded), i.wf = true → encode i = some enc → decode enc.port enc.bytes = .instr i

/-- The decoder reads the spec's own words: a STEP, a HELLO with its payload, a LINK, an unknown type and the seam frame of
95_test_vectors.md, byte for byte. -/
def Obligations.DecoderReadsTheSpecsWords : Prop :=
  decode .control [0x42, 0x47, 0x43, 0x46, 0x01, 0x04, 0x00, 0x03, 0x00, 0x04, 0x00, 0x28, 0x43, 0xF5, 0x1C, 0x02, 0x00,
    0x00, 0x00] = .instr (.step 3 2) ∧
  decode .control [0x42, 0x47, 0x43, 0x46, 0x01, 0x01, 0x00, 0x01, 0x00, 0x09, 0x00, 0x9C, 0xCF, 0x93, 0x60, 0x00, 0x00,
    0x00, 0x00, 0x01, 0x00, 0x00, 0x00, 0x00] = .instr (.hello 1 0 0 1 0) ∧
  decode .control [0x42, 0x47, 0x43, 0x46, 0x01, 0x0A, 0x00, 0x03, 0x00, 0x01, 0x00, 0xC8, 0xA0, 0x9D, 0x3C, 0x01] =
    .instr (.link 3 1) ∧
  decode .control [0x42, 0x47, 0x43, 0x46, 0x01, 0x0D, 0x00, 0x02, 0x00, 0x00, 0x00, 0x9F, 0x0F, 0x8C, 0x2D] =
    .instr (.unknownType 2 0x0D []) ∧
  decode (.seam .west) [0x42, 0x47, 0x53, 0x46, 0x01, 0x01, 0x01, 0x00, 0x00, 0x00, 0x00, 0x00, 0x01, 0x00, 0x00, 0x00,
    0x02, 0x34, 0x44, 0xA7, 0x5B] = .instr (.seamFrame .west ⟨1, 1, 0, [⟨0, 2⟩]⟩)

end
end

