-- ==== Sys2Proof/Laws/Bytes.lean ====
section
/-!
SUPPORT. Byte strings: lengths and values of little-endian fields (00_scope.md R10), reads of a field inside a frame, and what
one byte does to a CRC-32 (30_encoding.md R104).
-/

namespace Sys2Proof

@[simp] theorem leBytes_length (n v : Nat) : (leBytes n v).length = n := by
  induction n generalizing v with
  | zero => rfl
  | succ n ih => simp [leBytes, ih]

theorem leValue_lt (bs : Bytes) : leValue bs < 256 ^ bs.length := by
  induction bs with
  | nil => simp [leValue]
  | cons b bs ih =>
    have := b.isLt
    simp only [leValue, List.length_cons, pow_succ]
    omega

/-- A field holds its value modulo its size. -/
theorem leValue_leBytes (n v : Nat) : leValue (leBytes n v) = v % 256 ^ n := by
  induction n generalizing v with
  | zero => simp [leBytes, leValue, Nat.mod_one]
  | succ n ih =>
    rw [leBytes, leValue, ih, BitVec.toNat_ofNat, Nat.pow_succ' (m := 256), Nat.mod_mul]

theorem leBytes_leValue (bs : Bytes) : leBytes bs.length (leValue bs) = bs := by
  induction bs with
  | nil => rfl
  | cons b bs ih =>
    have h1 : (b.toNat + 256 * leValue bs) / 256 = leValue bs := by have := b.isLt; omega
    simp only [List.length_cons, leBytes, leValue, h1, ih]
    congr 1
    apply BitVec.eq_of_toNat_eq
    have := b.isLt
    simp only [BitVec.toNat_ofNat]
    omega

/-- A field read where it stands. -/
theorem memRead_append (xs ys zs : Bytes) {off n : Nat} (h1 : xs.length = off) (h2 : ys.length = n) :
    memRead (xs ++ (ys ++ zs)) off n = leValue ys := by
  subst h1 h2
  simp [memRead]

/-- A field written by an encoder and read by the decoder. -/
theorem memRead_leBytes (xs zs : Bytes) {off n : Nat} (v : Nat) (h : xs.length = off) :
    memRead (xs ++ (leBytes n v ++ zs)) off n = v % 256 ^ n := by
  rw [memRead_append xs (leBytes n v) zs h (by simp), leValue_leBytes]

theorem memRead_lt (buf : Bytes) (off n : Nat) : memRead buf off n < 256 ^ n := by
  unfold memRead
  refine lt_of_lt_of_le (leValue_lt _) (Nat.pow_le_pow_right (by norm_num) ?_)
  simp

/-! ### CRC-32 -/

/-- One bit of the division loses nothing: the top bit of the result is the bit shifted out. -/
theorem crcBit_msb (c : BitVec 32) : (crcBit c).getLsbD 31 = c.getLsbD 0 := by
  unfold crcBit
  by_cases h : c.getLsbD 0 = true
  · rw [if_pos h, h, BitVec.getLsbD_xor, BitVec.getLsbD_ushiftRight]
    simp
  · rw [if_neg h, BitVec.getLsbD_ushiftRight]
    simp only [Bool.not_eq_true] at h
    rw [h]
    simp

theorem crcBit_injective : Function.Injective crcBit := by
  intro c d h
  have h0 : c.getLsbD 0 = d.getLsbD 0 := by rw [← crcBit_msb, ← crcBit_msb, h]
  have hs : c >>> 1 = d >>> 1 := by
    unfold crcBit at h
    by_cases hc : c.getLsbD 0 = true
    · rw [if_pos hc, if_pos (h0 ▸ hc)] at h
      exact BitVec.xor_left_inj _ |>.1 h
    · rw [if_neg hc, if_neg (h0 ▸ hc)] at h
      exact h
  apply BitVec.eq_of_getLsbD_eq
  intro i hi
  cases i with
  | zero => exact h0
  | succ i =>
    have := congrArg (fun v => v.getLsbD i) hs
    simpa [BitVec.getLsbD_ushiftRight, Nat.add_comm] using this

/-- Different registers give different registers after one byte. -/
theorem crcByte_injective (b : Byte) : Function.Injective fun c => crcByte c b := by
  intro c d h
  have := crcBit_injective (crcBit_injective (crcBit_injective (crcBit_injective
    (crcBit_injective (crcBit_injective (crcBit_injective (crcBit_injective h)))))))
  exact BitVec.xor_left_inj _ |>.1 this

/-- Different bytes give different registers. -/
theorem crcByte_byte_injective (c : BitVec 32) : Function.Injective (crcByte c) := by
  intro b d h
  have := crcBit_injective (crcBit_injective (crcBit_injective (crcBit_injective
    (crcBit_injective (crcBit_injective (crcBit_injective (crcBit_injective h)))))))
  have h2 := (BitVec.xor_right_inj _).1 this
  apply BitVec.eq_of_toNat_eq
  have := congrArg BitVec.toNat h2
  simp only [BitVec.toNat_setWidth] at this
  have hb := b.isLt
  have hd := d.isLt
  omega

theorem foldl_crcByte_injective (bs : Bytes) : Function.Injective fun c => bs.foldl crcByte c := by
  induction bs with
  | nil => exact fun _ _ h => h
  | cons b bs ih => exact fun c d h => crcByte_injective b (ih h)

end Sys2Proof
end

