-- ==== Sys2Proof/Laws/State.lean ====
section
/-!
SUPPORT. The small lemmas of the state: what each named update leaves in each field, all by `rfl`, and the read of one edge after
each update.
-/

namespace Sys2Proof

namespace PerDir

variable {α : Type} (q : PerDir α) (d e : Dir) (v : α)

@[simp] theorem get_set_self : (q.set d v).get d = v := by cases d <;> rfl

theorem get_set_ne {d e : Dir} (h : e ≠ d) : (q.set d v).get e = q.get e := by
  cases d <;> cases e <;> first | rfl | exact absurd rfl h

theorem get_set : (q.set d v).get e = if e = d then v else q.get e := by
  by_cases h : e = d
  · subst h; simp
  · simp [h, get_set_ne]

@[simp] theorem get_all : (PerDir.all v).get d = v := by cases d <;> rfl

@[simp] theorem set_get_self : q.set d (q.get d) = q := by cases d <;> rfl

/-- Two families with the same entries are equal. -/
theorem ext_get {q r : PerDir α} (h : ∀ d, q.get d = r.get d) : q = r := by
  obtain ⟨n, e, s, w⟩ := q
  obtain ⟨n', e', s', w'⟩ := r
  have hn := h .north
  have he := h .east
  have hs := h .south
  have hw := h .west
  simp only [PerDir.get] at hn he hs hw
  subst hn he hs hw
  rfl

end PerDir

namespace Machine

variable (s : State)


/-! ### setEdge -/

@[simp] theorem State.setEdge_params (e : Dir) (es : EdgeState) : (s.setEdge e es).params = s.params := rfl
@[simp] theorem State.setEdge_lut (e : Dir) (es : EdgeState) : (s.setEdge e es).lut = s.lut := rfl
@[simp] theorem State.setEdge_src (e : Dir) (es : EdgeState) : (s.setEdge e es).src = s.src := rfl
@[simp] theorem State.setEdge_inDecl (e : Dir) (es : EdgeState) : (s.setEdge e es).inDecl = s.inDecl := rfl
@[simp] theorem State.setEdge_outDecl (e : Dir) (es : EdgeState) : (s.setEdge e es).outDecl = s.outDecl := rfl
@[simp] theorem State.setEdge_latency (e : Dir) (es : EdgeState) : (s.setEdge e es).latency = s.latency := rfl
@[simp] theorem State.setEdge_cur (e : Dir) (es : EdgeState) : (s.setEdge e es).cur = s.cur := rfl
@[simp] theorem State.setEdge_nxt (e : Dir) (es : EdgeState) : (s.setEdge e es).nxt = s.nxt := rfl
@[simp] theorem State.setEdge_ins (e : Dir) (es : EdgeState) : (s.setEdge e es).ins = s.ins := rfl
@[simp] theorem State.setEdge_t (e : Dir) (es : EdgeState) : (s.setEdge e es).t = s.t := rfl
@[simp] theorem State.setEdge_halted (e : Dir) (es : EdgeState) : (s.setEdge e es).halted = s.halted := rfl
@[simp] theorem State.setEdge_session (e : Dir) (es : EdgeState) : (s.setEdge e es).session = s.session := rfl
@[simp] theorem State.setEdge_upload (e : Dir) (es : EdgeState) : (s.setEdge e es).upload = s.upload := rfl
@[simp] theorem State.setEdge_pending (e : Dir) (es : EdgeState) : (s.setEdge e es).pending = s.pending := rfl
@[simp] theorem State.setEdge_q (e : Dir) (es : EdgeState) : (s.setEdge e es).q = s.q := rfl
@[simp] theorem State.setEdge_edges (e : Dir) (es : EdgeState) : (s.setEdge e es).edges = s.edges.set e es := rfl
@[simp] theorem State.setEdge_bstat (e : Dir) (es : EdgeState) : (s.setEdge e es).bstat = s.bstat := rfl
@[simp] theorem State.setEdge_protoDrops (e : Dir) (es : EdgeState) : (s.setEdge e es).protoDrops = s.protoDrops := rfl
@[simp] theorem State.setEdge_reported (e : Dir) (es : EdgeState) : (s.setEdge e es).reported = s.reported := rfl
@[simp] theorem State.setEdge_hostOut (e : Dir) (es : EdgeState) : (s.setEdge e es).hostOut = s.hostOut := rfl
@[simp] theorem State.setEdge_seamOut (e : Dir) (es : EdgeState) : (s.setEdge e es).seamOut = s.seamOut := rfl
@[simp] theorem State.setEdge_freeCount (e : Dir) (es : EdgeState) : (s.setEdge e es).freeCount = s.freeCount := rfl
@[simp] theorem State.setEdge_value (e : Dir) (es : EdgeState) : (s.setEdge e es).value = s.value := rfl
@[simp] theorem State.setEdge_agenda (e : Dir) (es : EdgeState) : (s.setEdge e es).agenda = s.agenda := rfl

/-! ### sendHost -/

@[simp] theorem State.sendHost_params (m : HostMsg) : (s.sendHost m).params = s.params := rfl
@[simp] theorem State.sendHost_lut (m : HostMsg) : (s.sendHost m).lut = s.lut := rfl
@[simp] theorem State.sendHost_src (m : HostMsg) : (s.sendHost m).src = s.src := rfl
@[simp] theorem State.sendHost_inDecl (m : HostMsg) : (s.sendHost m).inDecl = s.inDecl := rfl
@[simp] theorem State.sendHost_outDecl (m : HostMsg) : (s.sendHost m).outDecl = s.outDecl := rfl
@[simp] theorem State.sendHost_latency (m : HostMsg) : (s.sendHost m).latency = s.latency := rfl
@[simp] theorem State.sendHost_cur (m : HostMsg) : (s.sendHost m).cur = s.cur := rfl
@[simp] theorem State.sendHost_nxt (m : HostMsg) : (s.sendHost m).nxt = s.nxt := rfl
@[simp] theorem State.sendHost_ins (m : HostMsg) : (s.sendHost m).ins = s.ins := rfl
@[simp] theorem State.sendHost_t (m : HostMsg) : (s.sendHost m).t = s.t := rfl
@[simp] theorem State.sendHost_halted (m : HostMsg) : (s.sendHost m).halted = s.halted := rfl
@[simp] theorem State.sendHost_session (m : HostMsg) : (s.sendHost m).session = s.session := rfl
@[simp] theorem State.sendHost_upload (m : HostMsg) : (s.sendHost m).upload = s.upload := rfl
@[simp] theorem State.sendHost_pending (m : HostMsg) : (s.sendHost m).pending = s.pending := rfl
@[simp] theorem State.sendHost_q (m : HostMsg) : (s.sendHost m).q = s.q := rfl
@[simp] theorem State.sendHost_edges (m : HostMsg) : (s.sendHost m).edges = s.edges := rfl
@[simp] theorem State.sendHost_bstat (m : HostMsg) : (s.sendHost m).bstat = s.bstat := rfl
@[simp] theorem State.sendHost_protoDrops (m : HostMsg) : (s.sendHost m).protoDrops = s.protoDrops := rfl
@[simp] theorem State.sendHost_reported (m : HostMsg) : (s.sendHost m).reported = s.reported := rfl
@[simp] theorem State.sendHost_hostOut (m : HostMsg) : (s.sendHost m).hostOut = s.hostOut ++ [m] := rfl
@[simp] theorem State.sendHost_seamOut (m : HostMsg) : (s.sendHost m).seamOut = s.seamOut := rfl
@[simp] theorem State.sendHost_freeCount (m : HostMsg) : (s.sendHost m).freeCount = s.freeCount := rfl
@[simp] theorem State.sendHost_value (m : HostMsg) : (s.sendHost m).value = s.value := rfl
@[simp] theorem State.sendHost_agenda (m : HostMsg) : (s.sendHost m).agenda = s.agenda := rfl
@[simp] theorem State.sendHost_edge (m : HostMsg) (e' : Dir) : (s.sendHost m).edge e' = s.edge e' := rfl

/-! ### sendError -/

@[simp] theorem State.sendError_params (seq : BitVec 16) (code : ErrorCode) : (s.sendError seq code).params = s.params := rfl
@[simp] theorem State.sendError_lut (seq : BitVec 16) (code : ErrorCode) : (s.sendError seq code).lut = s.lut := rfl
@[simp] theorem State.sendError_src (seq : BitVec 16) (code : ErrorCode) : (s.sendError seq code).src = s.src := rfl
@[simp] theorem State.sendError_inDecl (seq : BitVec 16) (code : ErrorCode) : (s.sendError seq code).inDecl = s.inDecl := rfl
@[simp] theorem State.sendError_outDecl (seq : BitVec 16) (code : ErrorCode) : (s.sendError seq code).outDecl = s.outDecl := rfl
@[simp] theorem State.sendError_latency (seq : BitVec 16) (code : ErrorCode) : (s.sendError seq code).latency = s.latency := rfl
@[simp] theorem State.sendError_cur (seq : BitVec 16) (code : ErrorCode) : (s.sendError seq code).cur = s.cur := rfl
@[simp] theorem State.sendError_nxt (seq : BitVec 16) (code : ErrorCode) : (s.sendError seq code).nxt = s.nxt := rfl
@[simp] theorem State.sendError_ins (seq : BitVec 16) (code : ErrorCode) : (s.sendError seq code).ins = s.ins := rfl
@[simp] theorem State.sendError_t (seq : BitVec 16) (code : ErrorCode) : (s.sendError seq code).t = s.t := rfl
@[simp] theorem State.sendError_halted (seq : BitVec 16) (code : ErrorCode) : (s.sendError seq code).halted = s.halted := rfl
@[simp] theorem State.sendError_session (seq : BitVec 16) (code : ErrorCode) : (s.sendError seq code).session = s.session := rfl
@[simp] theorem State.sendError_upload (seq : BitVec 16) (code : ErrorCode) : (s.sendError seq code).upload = s.upload := rfl
@[simp] theorem State.sendError_pending (seq : BitVec 16) (code : ErrorCode) : (s.sendError seq code).pending = s.pending := rfl
@[simp] theorem State.sendError_q (seq : BitVec 16) (code : ErrorCode) : (s.sendError seq code).q = s.q := rfl
@[simp] theorem State.sendError_edges (seq : BitVec 16) (code : ErrorCode) : (s.sendError seq code).edges = s.edges := rfl
@[simp] theorem State.sendError_bstat (seq : BitVec 16) (code : ErrorCode) : (s.sendError seq code).bstat = s.bstat := rfl
@[simp] theorem State.sendError_protoDrops (seq : BitVec 16) (code : ErrorCode) : (s.sendError seq code).protoDrops = s.protoDrops := rfl
@[simp] theorem State.sendError_reported (seq : BitVec 16) (code : ErrorCode) : (s.sendError seq code).reported = s.reported := rfl
@[simp] theorem State.sendError_hostOut (seq : BitVec 16) (code : ErrorCode) : (s.sendError seq code).hostOut = s.hostOut ++ [.error seq code s.freeCount] := rfl
@[simp] theorem State.sendError_seamOut (seq : BitVec 16) (code : ErrorCode) : (s.sendError seq code).seamOut = s.seamOut := rfl
@[simp] theorem State.sendError_freeCount (seq : BitVec 16) (code : ErrorCode) : (s.sendError seq code).freeCount = s.freeCount + 1 := rfl
@[simp] theorem State.sendError_value (seq : BitVec 16) (code : ErrorCode) : (s.sendError seq code).value = s.value := rfl
@[simp] theorem State.sendError_agenda (seq : BitVec 16) (code : ErrorCode) : (s.sendError seq code).agenda = s.agenda := rfl
@[simp] theorem State.sendError_edge (seq : BitVec 16) (code : ErrorCode) (e' : Dir) : (s.sendError seq code).edge e' = s.edge e' := rfl

/-! ### sendSeam -/

@[simp] theorem State.sendSeam_params (e : Dir) (frame : Bytes) : (s.sendSeam e frame).params = s.params := rfl
@[simp] theorem State.sendSeam_lut (e : Dir) (frame : Bytes) : (s.sendSeam e frame).lut = s.lut := rfl
@[simp] theorem State.sendSeam_src (e : Dir) (frame : Bytes) : (s.sendSeam e frame).src = s.src := rfl
@[simp] theorem State.sendSeam_inDecl (e : Dir) (frame : Bytes) : (s.sendSeam e frame).inDecl = s.inDecl := rfl
@[simp] theorem State.sendSeam_outDecl (e : Dir) (frame : Bytes) : (s.sendSeam e frame).outDecl = s.outDecl := rfl
@[simp] theorem State.sendSeam_latency (e : Dir) (frame : Bytes) : (s.sendSeam e frame).latency = s.latency := rfl
@[simp] theorem State.sendSeam_cur (e : Dir) (frame : Bytes) : (s.sendSeam e frame).cur = s.cur := rfl
@[simp] theorem State.sendSeam_nxt (e : Dir) (frame : Bytes) : (s.sendSeam e frame).nxt = s.nxt := rfl
@[simp] theorem State.sendSeam_ins (e : Dir) (frame : Bytes) : (s.sendSeam e frame).ins = s.ins := rfl
@[simp] theorem State.sendSeam_t (e : Dir) (frame : Bytes) : (s.sendSeam e frame).t = s.t := rfl
@[simp] theorem State.sendSeam_halted (e : Dir) (frame : Bytes) : (s.sendSeam e frame).halted = s.halted := rfl
@[simp] theorem State.sendSeam_session (e : Dir) (frame : Bytes) : (s.sendSeam e frame).session = s.session := rfl
@[simp] theorem State.sendSeam_upload (e : Dir) (frame : Bytes) : (s.sendSeam e frame).upload = s.upload := rfl
@[simp] theorem State.sendSeam_pending (e : Dir) (frame : Bytes) : (s.sendSeam e frame).pending = s.pending := rfl
@[simp] theorem State.sendSeam_q (e : Dir) (frame : Bytes) : (s.sendSeam e frame).q = s.q := rfl
@[simp] theorem State.sendSeam_edges (e : Dir) (frame : Bytes) : (s.sendSeam e frame).edges = s.edges := rfl
@[simp] theorem State.sendSeam_bstat (e : Dir) (frame : Bytes) : (s.sendSeam e frame).bstat = s.bstat := rfl
@[simp] theorem State.sendSeam_protoDrops (e : Dir) (frame : Bytes) : (s.sendSeam e frame).protoDrops = s.protoDrops := rfl
@[simp] theorem State.sendSeam_reported (e : Dir) (frame : Bytes) : (s.sendSeam e frame).reported = s.reported := rfl
@[simp] theorem State.sendSeam_hostOut (e : Dir) (frame : Bytes) : (s.sendSeam e frame).hostOut = s.hostOut := rfl
@[simp] theorem State.sendSeam_seamOut (e : Dir) (frame : Bytes) : (s.sendSeam e frame).seamOut = s.seamOut ++ [(e, frame)] := rfl
@[simp] theorem State.sendSeam_freeCount (e : Dir) (frame : Bytes) : (s.sendSeam e frame).freeCount = s.freeCount := rfl
@[simp] theorem State.sendSeam_value (e : Dir) (frame : Bytes) : (s.sendSeam e frame).value = s.value := rfl
@[simp] theorem State.sendSeam_agenda (e : Dir) (frame : Bytes) : (s.sendSeam e frame).agenda = s.agenda := rfl
@[simp] theorem State.sendSeam_edge (e : Dir) (frame : Bytes) (e' : Dir) : (s.sendSeam e frame).edge e' = s.edge e' := rfl

/-! ### clearBarrier -/

@[simp] theorem State.clearBarrier_params : (s.clearBarrier).params = s.params := rfl
@[simp] theorem State.clearBarrier_lut : (s.clearBarrier).lut = s.lut := rfl
@[simp] theorem State.clearBarrier_src : (s.clearBarrier).src = s.src := rfl
@[simp] theorem State.clearBarrier_inDecl : (s.clearBarrier).inDecl = s.inDecl := rfl
@[simp] theorem State.clearBarrier_outDecl : (s.clearBarrier).outDecl = s.outDecl := rfl
@[simp] theorem State.clearBarrier_latency : (s.clearBarrier).latency = s.latency := rfl
@[simp] theorem State.clearBarrier_cur : (s.clearBarrier).cur = s.cur := rfl
@[simp] theorem State.clearBarrier_nxt : (s.clearBarrier).nxt = s.nxt := rfl
@[simp] theorem State.clearBarrier_ins : (s.clearBarrier).ins = s.ins := rfl
@[simp] theorem State.clearBarrier_t : (s.clearBarrier).t = s.t := rfl
@[simp] theorem State.clearBarrier_halted : (s.clearBarrier).halted = s.halted := rfl
@[simp] theorem State.clearBarrier_session : (s.clearBarrier).session = s.session := rfl
@[simp] theorem State.clearBarrier_upload : (s.clearBarrier).upload = s.upload := rfl
@[simp] theorem State.clearBarrier_pending : (s.clearBarrier).pending = s.pending := rfl
@[simp] theorem State.clearBarrier_q : (s.clearBarrier).q = s.q := rfl
@[simp] theorem State.clearBarrier_edges : (s.clearBarrier).edges = s.edges := rfl
@[simp] theorem State.clearBarrier_bstat : (s.clearBarrier).bstat = BarrierStatus.clear := rfl
@[simp] theorem State.clearBarrier_protoDrops : (s.clearBarrier).protoDrops = s.protoDrops := rfl
@[simp] theorem State.clearBarrier_reported : (s.clearBarrier).reported = s.reported := rfl
@[simp] theorem State.clearBarrier_hostOut : (s.clearBarrier).hostOut = s.hostOut := rfl
@[simp] theorem State.clearBarrier_seamOut : (s.clearBarrier).seamOut = s.seamOut := rfl
@[simp] theorem State.clearBarrier_freeCount : (s.clearBarrier).freeCount = s.freeCount := rfl
@[simp] theorem State.clearBarrier_value : (s.clearBarrier).value = s.value := rfl
@[simp] theorem State.clearBarrier_agenda : (s.clearBarrier).agenda = s.agenda := rfl
@[simp] theorem State.clearBarrier_edge (e' : Dir) : (s.clearBarrier).edge e' = s.edge e' := rfl

/-! ### commitTick -/

@[simp] theorem State.commitTick_params : (s.commitTick).params = s.params := rfl
@[simp] theorem State.commitTick_lut : (s.commitTick).lut = s.lut := rfl
@[simp] theorem State.commitTick_src : (s.commitTick).src = s.src := rfl
@[simp] theorem State.commitTick_inDecl : (s.commitTick).inDecl = s.inDecl := rfl
@[simp] theorem State.commitTick_outDecl : (s.commitTick).outDecl = s.outDecl := rfl
@[simp] theorem State.commitTick_latency : (s.commitTick).latency = s.latency := rfl
@[simp] theorem State.commitTick_cur : (s.commitTick).cur = s.nextBuffer := rfl
@[simp] theorem State.commitTick_nxt : (s.commitTick).nxt = s.nextBuffer := rfl
@[simp] theorem State.commitTick_ins : (s.commitTick).ins = s.ins := rfl
@[simp] theorem State.commitTick_t : (s.commitTick).t = s.t := rfl
@[simp] theorem State.commitTick_halted : (s.commitTick).halted = s.halted := rfl
@[simp] theorem State.commitTick_session : (s.commitTick).session = s.session := rfl
@[simp] theorem State.commitTick_upload : (s.commitTick).upload = s.upload := rfl
@[simp] theorem State.commitTick_pending : (s.commitTick).pending = s.pending := rfl
@[simp] theorem State.commitTick_q : (s.commitTick).q = s.q := rfl
@[simp] theorem State.commitTick_edges : (s.commitTick).edges = s.edges := rfl
@[simp] theorem State.commitTick_bstat : (s.commitTick).bstat = s.bstat := rfl
@[simp] theorem State.commitTick_protoDrops : (s.commitTick).protoDrops = s.protoDrops := rfl
@[simp] theorem State.commitTick_reported : (s.commitTick).reported = s.reported := rfl
@[simp] theorem State.commitTick_hostOut : (s.commitTick).hostOut = s.hostOut := rfl
@[simp] theorem State.commitTick_seamOut : (s.commitTick).seamOut = s.seamOut := rfl
@[simp] theorem State.commitTick_freeCount : (s.commitTick).freeCount = s.freeCount := rfl
@[simp] theorem State.commitTick_value : (s.commitTick).value = s.value := rfl
@[simp] theorem State.commitTick_agenda : (s.commitTick).agenda = s.agenda := rfl
@[simp] theorem State.commitTick_edge (e' : Dir) : (s.commitTick).edge e' = s.edge e' := rfl

/-! ### endSession -/

@[simp] theorem State.endSession_params : (s.endSession).params = s.params := rfl
@[simp] theorem State.endSession_lut : (s.endSession).lut = s.lut := rfl
@[simp] theorem State.endSession_src : (s.endSession).src = s.src := rfl
@[simp] theorem State.endSession_inDecl : (s.endSession).inDecl = s.inDecl := rfl
@[simp] theorem State.endSession_outDecl : (s.endSession).outDecl = s.outDecl := rfl
@[simp] theorem State.endSession_latency : (s.endSession).latency = s.latency := rfl
@[simp] theorem State.endSession_cur : (s.endSession).cur = s.cur := rfl
@[simp] theorem State.endSession_nxt : (s.endSession).nxt = s.nxt := rfl
@[simp] theorem State.endSession_ins : (s.endSession).ins = s.ins := rfl
@[simp] theorem State.endSession_t : (s.endSession).t = s.t := rfl
@[simp] theorem State.endSession_halted : (s.endSession).halted = s.halted := rfl
@[simp] theorem State.endSession_session : (s.endSession).session = false := rfl
@[simp] theorem State.endSession_upload : (s.endSession).upload = none := rfl
@[simp] theorem State.endSession_pending : (s.endSession).pending = 0 := rfl
@[simp] theorem State.endSession_q : (s.endSession).q = s.q := rfl
@[simp] theorem State.endSession_edges : (s.endSession).edges = s.edges := rfl
@[simp] theorem State.endSession_bstat : (s.endSession).bstat = BarrierStatus.clear := rfl
@[simp] theorem State.endSession_protoDrops : (s.endSession).protoDrops = s.protoDrops := rfl
@[simp] theorem State.endSession_reported : (s.endSession).reported = s.reported := rfl
@[simp] theorem State.endSession_hostOut : (s.endSession).hostOut = s.hostOut := rfl
@[simp] theorem State.endSession_seamOut : (s.endSession).seamOut = s.seamOut := rfl
@[simp] theorem State.endSession_freeCount : (s.endSession).freeCount = s.freeCount := rfl
@[simp] theorem State.endSession_value : (s.endSession).value = s.value := rfl
@[simp] theorem State.endSession_agenda : (s.endSession).agenda = s.agenda := rfl
@[simp] theorem State.endSession_edge (e' : Dir) : (s.endSession).edge e' = s.edge e' := rfl

/-! ### commitTables -/

@[simp] theorem State.commitTables_params (ts : List (PerDir Table)) : (s.commitTables ts).params = s.params := rfl
@[simp] theorem State.commitTables_lut (ts : List (PerDir Table)) : (s.commitTables ts).lut = ts := rfl
@[simp] theorem State.commitTables_src (ts : List (PerDir Table)) : (s.commitTables ts).src = s.src := rfl
@[simp] theorem State.commitTables_inDecl (ts : List (PerDir Table)) : (s.commitTables ts).inDecl = s.inDecl := rfl
@[simp] theorem State.commitTables_outDecl (ts : List (PerDir Table)) : (s.commitTables ts).outDecl = s.outDecl := rfl
@[simp] theorem State.commitTables_latency (ts : List (PerDir Table)) : (s.commitTables ts).latency = s.latency := rfl
@[simp] theorem State.commitTables_cur (ts : List (PerDir Table)) : (s.commitTables ts).cur = s.cur.map fun _ => 0 := rfl
@[simp] theorem State.commitTables_nxt (ts : List (PerDir Table)) : (s.commitTables ts).nxt = s.nxt := rfl
@[simp] theorem State.commitTables_ins (ts : List (PerDir Table)) : (s.commitTables ts).ins = s.ins := rfl
@[simp] theorem State.commitTables_t (ts : List (PerDir Table)) : (s.commitTables ts).t = 0 := rfl
@[simp] theorem State.commitTables_halted (ts : List (PerDir Table)) : (s.commitTables ts).halted = s.halted := rfl
@[simp] theorem State.commitTables_session (ts : List (PerDir Table)) : (s.commitTables ts).session = s.session := rfl
@[simp] theorem State.commitTables_upload (ts : List (PerDir Table)) : (s.commitTables ts).upload = s.upload := rfl
@[simp] theorem State.commitTables_pending (ts : List (PerDir Table)) : (s.commitTables ts).pending = s.pending := rfl
@[simp] theorem State.commitTables_q (ts : List (PerDir Table)) : (s.commitTables ts).q = s.q := rfl
@[simp] theorem State.commitTables_edges (ts : List (PerDir Table)) : (s.commitTables ts).edges = ⟨s.edges.n.restart, s.edges.e.restart, s.edges.s.restart, s.edges.w.restart⟩ := rfl
@[simp] theorem State.commitTables_bstat (ts : List (PerDir Table)) : (s.commitTables ts).bstat = BarrierStatus.clear := rfl
@[simp] theorem State.commitTables_protoDrops (ts : List (PerDir Table)) : (s.commitTables ts).protoDrops = s.protoDrops := rfl
@[simp] theorem State.commitTables_reported (ts : List (PerDir Table)) : (s.commitTables ts).reported = none := rfl
@[simp] theorem State.commitTables_hostOut (ts : List (PerDir Table)) : (s.commitTables ts).hostOut = s.hostOut := rfl
@[simp] theorem State.commitTables_seamOut (ts : List (PerDir Table)) : (s.commitTables ts).seamOut = s.seamOut := rfl
@[simp] theorem State.commitTables_freeCount (ts : List (PerDir Table)) : (s.commitTables ts).freeCount = s.freeCount := rfl
@[simp] theorem State.commitTables_value (ts : List (PerDir Table)) : (s.commitTables ts).value = s.value := rfl
@[simp] theorem State.commitTables_agenda (ts : List (PerDir Table)) : (s.commitTables ts).agenda = s.agenda := rfl

/-! ### One edge -/

@[simp] theorem State.setEdge_edge_self (e : Dir) (es : EdgeState) : (s.setEdge e es).edge e = es := by
  simp [State.edge]

theorem State.setEdge_edge (e e' : Dir) (es : EdgeState) :
    (s.setEdge e es).edge e' = if e' = e then es else s.edge e' := by
  simp [State.edge, PerDir.get_set]

theorem State.setEdge_edge_ne {e e' : Dir} (h : e' ≠ e) (es : EdgeState) : (s.setEdge e es).edge e' = s.edge e' := by
  simp [State.setEdge_edge, h]

@[simp] theorem State.commitTables_edge (ts : List (PerDir Table)) (e : Dir) :
    (s.commitTables ts).edge e = (s.edge e).restart := by cases e <;> rfl

/-! ### Reads that depend on few fields -/

@[simp] theorem State.setEdge_curAt (e : Dir) (es : EdgeState) (c : Coord) : (s.setEdge e es).curAt c = s.curAt c := rfl
@[simp] theorem State.sendSeam_curAt (e : Dir) (frame : Bytes) (c : Coord) :
    (s.sendSeam e frame).curAt c = s.curAt c := rfl
@[simp] theorem State.sendHost_curAt (m : HostMsg) (c : Coord) : (s.sendHost m).curAt c = s.curAt c := rfl
@[simp] theorem State.sendError_curAt (seq : BitVec 16) (code : ErrorCode) (c : Coord) :
    (s.sendError seq code).curAt c = s.curAt c := rfl
@[simp] theorem State.clearBarrier_barrierOk : s.clearBarrier.barrierOk = s.barrierOk := rfl
@[simp] theorem State.sendError_barrierOk (seq : BitVec 16) (code : ErrorCode) :
    (s.sendError seq code).barrierOk = s.barrierOk := rfl

end Machine

end Sys2Proof
end

