-- ==== Sys2Proof/Laws/Grid.lean ====
section
/-!
SUPPORT. The grid: positions of cells in the dense lists, parity and adjacency (00_scope.md R12, 20_memory.md R62), the edges and
lanes of a tile (42_seam_barrier.md R202, R203), and what a tick leaves at a coordinate.
-/

namespace Sys2Proof

/-- Grid-adjacent coordinates have opposite parity (R12). -/
theorem Coord.adjacent_parity {c c' : Coord} (h : c.adjacent c' = true) : c.parity = 1 - c'.parity := by
  simp only [Coord.adjacent, decide_eq_true_eq] at h
  simp only [Coord.parity]
  omega

theorem Coord.parity_le (c : Coord) : c.parity ≤ 1 := by
  simp only [Coord.parity]
  omega

theorem Coord.adjacent_dist {c c' : Coord} (h : c.adjacent c' = true) : c.dist c' = 1 := by
  simpa [Coord.adjacent, Coord.dist] using h

theorem Coord.dist_comm (c c' : Coord) : c.dist c' = c'.dist c := by
  simp only [Coord.dist]
  omega

theorem Coord.dist_triangle (a b c : Coord) : a.dist c ≤ a.dist b + b.dist c := by
  simp only [Coord.dist]
  omega

theorem Coord.step_adjacent (c : Coord) (d : Dir) : c.adjacent (c.step d) = true := by
  cases d <;> simp [Coord.adjacent, Coord.step]

namespace Machine

variable {p : Params}

theorem inRegion_iff {c : Coord} : inRegion p c = true ↔
    (p.originX : Int) ≤ c.x ∧ c.x < p.originX + p.tileW ∧ (p.originY : Int) ≤ c.y ∧ c.y < p.originY + p.tileH := by
  simp [inRegion]

theorem inGrid_iff {c : Coord} : inGrid p c = true ↔ 0 ≤ c.x ∧ c.x < p.gridW ∧ 0 ≤ c.y ∧ c.y < p.gridH := by
  simp [inGrid]

theorem cellIndex_lt {c : Coord} (h : inRegion p c = true) : cellIndex p c < cellCount p := by
  obtain ⟨h1, h2, h3, h4⟩ := inRegion_iff.1 h
  unfold cellIndex cellCount
  have hx : (c.x - p.originX).toNat < p.tileW := by omega
  have hy : (c.y - p.originY).toNat + 1 ≤ p.tileH := by omega
  calc (c.y - p.originY).toNat * p.tileW + (c.x - p.originX).toNat
      < (c.y - p.originY).toNat * p.tileW + p.tileW := by omega
    _ = ((c.y - p.originY).toNat + 1) * p.tileW := by ring
    _ ≤ p.tileH * p.tileW := Nat.mul_le_mul_right _ hy
    _ = p.tileW * p.tileH := Nat.mul_comm _ _

/-- The dense lists hold each cell at one place. -/
theorem coordAt_cellIndex {c : Coord} (h : inRegion p c = true) : coordAt p (cellIndex p c) = c := by
  obtain ⟨h1, h2, h3, h4⟩ := inRegion_iff.1 h
  have hx : (c.x - p.originX).toNat < p.tileW := by omega
  have hm : cellIndex p c % p.tileW = (c.x - p.originX).toNat := by
    rw [cellIndex, Nat.add_comm, Nat.add_mul_mod_self_right, Nat.mod_eq_of_lt hx]
  have hd : cellIndex p c / p.tileW = (c.y - p.originY).toNat := by
    rw [cellIndex, Nat.add_comm, Nat.add_mul_div_right _ _ (by omega), Nat.div_eq_of_lt hx, Nat.zero_add]
  unfold coordAt
  rw [hm, hd]
  obtain ⟨cx, cy⟩ := c
  simp only [Coord.mk.injEq]
  simp only at h1 h2 h3 h4
  omega

theorem cellIndex_injective {c c' : Coord} (h : inRegion p c = true) (h' : inRegion p c' = true)
    (he : cellIndex p c = cellIndex p c') : c = c' := by
  rw [← coordAt_cellIndex h, ← coordAt_cellIndex h', he]

theorem coordAt_inRegion {i : Nat} (h : i < cellCount p) : inRegion p (coordAt p i) = true := by
  unfold cellCount at h
  have hw : 0 < p.tileW := Nat.pos_of_ne_zero fun h0 => by simp [h0] at h
  have h1 : i % p.tileW < p.tileW := Nat.mod_lt _ hw
  have h2 : i / p.tileW < p.tileH := by rw [Nat.div_lt_iff_lt_mul hw, Nat.mul_comm]; exact h
  rw [inRegion_iff]
  simp only [coordAt]
  generalize i % p.tileW = x at *
  generalize i / p.tileW = y at *
  omega

/-- The dense order lists exactly the cells of the region. -/
theorem mem_regionCoords {c : Coord} : c ∈ regionCoords p ↔ inRegion p c = true := by
  simp only [regionCoords, List.mem_map, List.mem_range]
  constructor
  · rintro ⟨i, hi, rfl⟩
    exact coordAt_inRegion hi
  · exact fun h => ⟨_, cellIndex_lt h, coordAt_cellIndex h⟩

@[simp] theorem regionCoords_length : (regionCoords p).length = cellCount p := by simp [regionCoords]

/-- A map over the region, read at a cell. -/
theorem getD_map_regionCoords {α : Type} (f : Coord → α) (a : α) {c : Coord} (h : inRegion p c = true) :
    ((regionCoords p).map f).getD (cellIndex p c) a = f c := by
  have hl := cellIndex_lt h
  rw [List.getD_eq_getElem?_getD]
  simp [regionCoords, hl, coordAt_cellIndex h]

@[simp] theorem State.nextBuffer_length (s : State) : s.nextBuffer.length = cellCount s.params := by
  simp [State.nextBuffer]

/-- What the commit of a tick leaves in a cell of the region (41_tick.md R170). -/
theorem State.commitTick_curAt (s : State) {c : Coord} (h : inRegion s.params c = true) :
    s.commitTick.curAt c = s.nextOutputs c := by
  simp only [State.curAt, State.commitTick_cur, State.commitTick_params, State.nextBuffer]
  exact getD_map_regionCoords _ _ h

theorem State.commitTick_nxtAt (s : State) {c : Coord} (h : inRegion s.params c = true) :
    s.commitTick.nxtAt c = s.nextOutputs c := by
  simp only [State.nxtAt, State.commitTick_nxt, State.commitTick_params, State.nextBuffer]
  exact getD_map_regionCoords _ _ h

/-! ### Four bits in direction order -/

@[simp] theorem nibbleOf_bit (f : Dir → Bool) (d : Dir) : (nibbleOf f).getLsbD d.code = f d := by
  unfold nibbleOf
  have h : ∀ n e s w : Bool, ∀ d : Dir, ((BitVec.ofBool n).setWidth 4 ||| ((BitVec.ofBool e).setWidth 4 <<< 1)
      ||| ((BitVec.ofBool s).setWidth 4 <<< 2) ||| ((BitVec.ofBool w).setWidth 4 <<< 3)).getLsbD d.code
      = (match d with | .north => n | .east => e | .south => s | .west => w) := by
    intro n e s w d
    cases d <;> revert n e s w <;> decide
  rw [h]
  cases d <;> rfl

/-- Four bits are determined by their four direction bits. -/
theorem nibble_ext {a b : Nibble} (h : ∀ d : Dir, a.getLsbD d.code = b.getLsbD d.code) : a = b := by
  apply BitVec.eq_of_getLsbD_eq
  intro i hi
  have h4 : i = 0 ∨ i = 1 ∨ i = 2 ∨ i = 3 := by omega
  rcases h4 with rfl | rfl | rfl | rfl
  · exact h .north
  · exact h .east
  · exact h .south
  · exact h .west

/-- The number of four bits in direction order (30_encoding.md R92). -/
theorem nibbleOf_toNat (f : Dir → Bool) :
    (nibbleOf f).toNat = (f .north).toNat + 2 * (f .east).toNat + 4 * (f .south).toNat + 8 * (f .west).toNat := by
  unfold nibbleOf
  generalize f .north = n
  generalize f .east = e
  generalize f .south = s
  generalize f .west = w
  revert n e s w
  decide

/-! ### Edges and lanes (42_seam_barrier.md R202) -/

/-- A lane's edge cell is a cell of the region. -/
theorem ecell_inRegion {e : Dir} {k : Nat} (hp : 0 < p.tileW ∧ 0 < p.tileH) (hk : k < laneCount p e) :
    inRegion p (ecell p e k) = true := by
  obtain ⟨h1, h2⟩ := hp
  rw [inRegion_iff]
  cases e <;> simp only [ecell, laneCount] at * <;> omega

/-- A lane's neighbour cell has the other parity (R202). -/
theorem ncell_parity (e : Dir) (k : Nat) : (ncell p e k).parity = 1 - (ecell p e k).parity := by
  have h := Coord.adjacent_parity (Coord.step_adjacent (ecell p e k) e)
  have h1 := (ecell p e k).parity_le
  have h2 := ((ecell p e k).step e).parity_le
  simp only [ncell]
  omega

theorem seamLane_mk (x y : Int) : seamLane p ⟨x, y⟩ =
    if inGrid p ⟨x, y⟩ then
      if 0 ≤ x - p.originX ∧ x - p.originX < p.tileW then
        if y - p.originY = -1 then some (.north, (x - p.originX).toNat)
        else if y - p.originY = p.tileH then some (.south, (x - p.originX).toNat)
        else none
      else if 0 ≤ y - p.originY ∧ y - p.originY < p.tileH then
        if x - p.originX = -1 then some (.west, (y - p.originY).toNat)
        else if x - p.originX = p.tileW then some (.east, (y - p.originY).toNat)
        else none
      else none
    else none := rfl

/-- The seam coordinates of a tile are its neighbour cells (R203). -/
theorem seamLane_ncell {e : Dir} {k : Nat} (hp : p.valid = true) (hn : hasNeighbour p e = true)
    (hk : k < laneCount p e) : seamLane p (ncell p e k) = some (e, k) := by
  simp only [Params.valid, dimOk, Bool.and_eq_true, decide_eq_true_eq] at hp
  have hg : inGrid p (ncell p e k) = true := by
    rw [inGrid_iff]
    cases e <;> simp only [ncell, ecell, Coord.step, laneCount, hasNeighbour, decide_eq_true_eq] at * <;> omega
  have hk' : k < laneCount p e := hk
  cases e <;> simp only [laneCount, hasNeighbour, decide_eq_true_eq] at hn hk'
  · have hg : inGrid p ⟨p.originX + k, p.originY - 1⟩ = true := hg
    change seamLane p ⟨p.originX + k, p.originY - 1⟩ = _
    rw [seamLane_mk, if_pos hg, if_pos (by omega), if_pos (by omega),
      show (p.originX + k - p.originX : Int).toNat = k by omega]
  · have hg : inGrid p ⟨p.originX + p.tileW - 1 + 1, p.originY + k⟩ = true := hg
    change seamLane p ⟨p.originX + p.tileW - 1 + 1, p.originY + k⟩ = _
    rw [seamLane_mk, if_pos hg, if_neg (by omega), if_pos (by omega), if_neg (by omega), if_pos (by omega),
      show (p.originY + k - p.originY : Int).toNat = k by omega]
  · have hg : inGrid p ⟨p.originX + k, p.originY + p.tileH - 1 + 1⟩ = true := hg
    change seamLane p ⟨p.originX + k, p.originY + p.tileH - 1 + 1⟩ = _
    rw [seamLane_mk, if_pos hg, if_pos (by omega), if_neg (by omega), if_pos (by omega),
      show (p.originX + k - p.originX : Int).toNat = k by omega]
  · have hg : inGrid p ⟨p.originX - 1, p.originY + k⟩ = true := hg
    change seamLane p ⟨p.originX - 1, p.originY + k⟩ = _
    rw [seamLane_mk, if_pos hg, if_neg (by omega), if_pos (by omega), if_pos (by omega),
      show (p.originY + k - p.originY : Int).toNat = k by omega]

/-- A seam coordinate is the neighbour cell of its edge and lane (R203). -/
theorem seamLane_spec {c : Coord} {e : Dir} {k : Nat} (h : seamLane p c = some (e, k)) :
    k < laneCount p e ∧ ncell p e k = c ∧ inGrid p c = true ∧ inRegion p c = false := by
  unfold seamLane at h
  obtain ⟨cx, cy⟩ := c
  simp only at h
  split_ifs at h with h1 h2 h3 h4 h5 h6 h7 <;> simp only [Option.some.injEq, Prod.mk.injEq] at h <;>
    obtain ⟨rfl, rfl⟩ := h <;>
    refine ⟨?_, ?_, h1, ?_⟩ <;>
    simp only [ncell, ecell, Coord.step, laneCount, inRegion, decide_eq_false_iff_not, Coord.mk.injEq] <;> omega

end Machine

end Sys2Proof
end

