-- ==== Sys2Proof/Laws/Memory.lean ====
section
/-!
SUPPORT. The upload buffer's cells (10_state.md R35; log 20): reads after writes, the canonical form is kept, and what a complete
buffer holds; and the association lists of the input registers.
-/

namespace Sys2Proof.Machine

namespace Memory

/-! ### Reads after writes -/

theorem read_cons (b a : Nat) (v : Byte) (m : List Host.Cell) :
    read ((b, v) :: m) a = if b = a then some v else read m a := rfl

theorem read_write (m : List Host.Cell) (a b : Nat) (v : Byte) :
    read (write m a v) b = if b = a then some v else read m b := by
  induction m with
  | nil => simp [write, read, eq_comm]
  | cons c rest ih =>
    obtain ⟨d, w⟩ := c
    rcases lt_trichotomy a d with h | h | h
    · simp only [write, if_pos h, read_cons, eq_comm (a := a)]
    · subst h
      simp only [write, lt_irrefl, if_false, if_true, read_cons, eq_comm (a := a)]
      split_ifs <;> rfl
    · have h1 : ¬a < d := by omega
      have h2 : ¬a = d := by omega
      simp only [write, h1, h2, if_false, read_cons, ih]
      by_cases hb : d = b
      · have : ¬b = a := by omega
        simp [hb, this]
      · simp [hb]

theorem read_write_self (m : List Host.Cell) (a : Nat) (v : Byte) : read (write m a v) a = some v := by
  simp [read_write]

theorem read_write_ne (m : List Host.Cell) {a b : Nat} (v : Byte) (h : b ≠ a) : read (write m a v) b = read m b := by
  simp [read_write, h]

/-- A byte string written from `off` on: its own bytes there, the old cells elsewhere. -/
theorem read_writeBytes (m : List Host.Cell) (off a : Nat) (bs : Bytes) :
    read (writeBytes m off bs) a = if off ≤ a ∧ a < off + bs.length then bs[a - off]? else read m a := by
  induction bs generalizing m off with
  | nil =>
    have : ¬(off ≤ a ∧ a < off + 0) := by omega
    simp only [writeBytes, List.length_nil]
    rw [if_neg this]
  | cons v vs ih =>
    rw [writeBytes, ih, read_write]
    by_cases ha : a = off
    · subst ha; simp
    · by_cases hin : off + 1 ≤ a ∧ a < off + 1 + vs.length
      · have h2 : off ≤ a ∧ a < off + (v :: vs).length := by simp only [List.length_cons]; omega
        rw [if_pos hin, if_pos h2]
        have : a - off = (a - (off + 1)) + 1 := by omega
        rw [this, List.getElem?_cons_succ]
      · have h2 : ¬(off ≤ a ∧ a < off + (v :: vs).length) := by simp only [List.length_cons]; omega
        rw [if_neg hin, if_neg ha, if_neg h2]

/-! ### The canonical form -/

theorem wf_nil : wf [] = true := rfl

theorem wf_cons (a : Nat) (v : Byte) (m : List Host.Cell) :
    wf ((a, v) :: m) = true ↔ (∀ c ∈ m, a < c.1) ∧ wf m = true := by
  simp [wf, List.pairwise_cons]

theorem mem_write {m : List Host.Cell} {a : Nat} {v : Byte} {c : Host.Cell} (h : c ∈ write m a v) :
    c = (a, v) ∨ c ∈ m := by
  induction m with
  | nil => simpa [write] using h
  | cons d rest ih =>
    obtain ⟨b, w⟩ := d
    unfold write at h
    split_ifs at h with h1 h2
    · rcases List.mem_cons.1 h with h | h
      · exact Or.inl h
      · exact Or.inr h
    · rcases List.mem_cons.1 h with h | h
      · exact Or.inl h
      · exact Or.inr (List.mem_cons_of_mem _ h)
    · rcases List.mem_cons.1 h with h | h
      · exact Or.inr (h ▸ List.mem_cons_self)
      · rcases ih h with h | h
        · exact Or.inl h
        · exact Or.inr (List.mem_cons_of_mem _ h)

/-- A write keeps the canonical form. -/
theorem wf_write {m : List Host.Cell} (a : Nat) (v : Byte) (h : wf m = true) : wf (write m a v) = true := by
  induction m with
  | nil => rfl
  | cons c rest ih =>
    obtain ⟨b, w⟩ := c
    obtain ⟨h1, h2⟩ := (wf_cons b w rest).1 h
    unfold write
    split_ifs with hab heq
    · refine (wf_cons _ _ _).2 ⟨?_, h⟩
      intro c hc
      rcases List.mem_cons.1 hc with hc | hc
      · subst hc; exact hab
      · exact hab.trans (h1 c hc)
    · subst heq
      exact (wf_cons _ _ _).2 ⟨h1, h2⟩
    · refine (wf_cons _ _ _).2 ⟨?_, ih h2⟩
      intro c hc
      rcases mem_write hc with hc | hc
      · subst hc; simp only; omega
      · exact h1 c hc

/-- A byte string's write keeps the canonical form. -/
theorem wf_writeBytes {m : List Host.Cell} (off : Nat) (bs : Bytes) (h : wf m = true) :
    wf (writeBytes m off bs) = true := by
  induction bs generalizing m off with
  | nil => exact h
  | cons v vs ih => exact ih _ (wf_write _ _ h)

/-- Every cell after a byte string's write is an old cell or lies in the written range. -/
theorem mem_writeBytes {m : List Host.Cell} {off : Nat} {bs : Bytes} {c : Host.Cell} (h : c ∈ writeBytes m off bs) :
    c ∈ m ∨ (off ≤ c.1 ∧ c.1 < off + bs.length) := by
  induction bs generalizing m off with
  | nil => exact Or.inl h
  | cons v vs ih =>
    simp only [List.length_cons]
    rcases ih h with h | h
    · rcases mem_write h with h | h
      · subst h; right; simp
      · exact Or.inl h
    · right; omega

theorem full_iff (m : List Host.Cell) (n : Nat) : full m n = true ↔ ∀ a < n, (read m a).isSome = true := by
  induction n with
  | zero => simp [full]
  | succ n ih =>
    rw [full, Bool.and_eq_true, ih]
    constructor
    · rintro ⟨h1, h2⟩ a ha
      rcases Nat.lt_succ_iff_lt_or_eq.1 ha with h | h
      · exact h2 a h
      · subst h; exact h1
    · intro h
      exact ⟨h n (Nat.lt_succ_self n), fun a ha => h a (Nat.lt_succ_of_lt ha)⟩

end Memory

/-- An upload is complete when every byte below its total has been written (43_host_commands.md R248). -/
theorem Upload.complete_iff (u : Upload) :
    u.complete = true ↔ ∀ a < u.total.toNat, (Memory.read u.mem a).isSome = true := Memory.full_iff _ _

@[simp] theorem Upload.bytes_length (u : Upload) : u.bytes.length = u.total.toNat := by simp [Upload.bytes]

/-- An upload of one whole byte string holds it. -/
theorem uploadOf_bytes (b : Bytes) (h : b.length < 2 ^ 32) : (uploadOf b).bytes = b := by
  have hl : b.length % 4294967296 = b.length := Nat.mod_eq_of_lt h
  apply List.ext_getElem
  · simp [uploadOf, hl]
  · intro i h1 h2
    simp [Upload.bytes, uploadOf, Memory.read_writeBytes, h2]

theorem uploadOf_complete (b : Bytes) (h : b.length < 2 ^ 32) : (uploadOf b).complete = true := by
  have hl : b.length % 4294967296 = b.length := Nat.mod_eq_of_lt h
  rw [Upload.complete_iff]
  intro a ha
  simp only [uploadOf, BitVec.toNat_ofNat] at ha ⊢
  norm_num [hl] at ha
  simp [Memory.read_writeBytes, ha]

/-! ### Names and input registers -/

theorem lookupName_cons {α : Type} (k n : VarName) (w : α) (l : List (VarName × α)) :
    lookupName n ((k, w) :: l) = if k = n then some w else lookupName n l := rfl

theorem lookupName_updateName {α : Type} (n m : VarName) (v : α) (l : List (VarName × α)) :
    lookupName m (updateName n v l) =
      if m = n ∧ (lookupName n l).isSome then some v else lookupName m l := by
  induction l with
  | nil => simp [updateName, lookupName]
  | cons p rest ih =>
    obtain ⟨k, w⟩ := p
    by_cases hk : k = n
    · subst hk
      simp only [updateName, if_true, lookupName_cons, Option.isSome_some, and_true, eq_comm (a := k)]
      split_ifs <;> rfl
    · simp only [updateName, hk, if_false, lookupName_cons, ih]
      by_cases hm : k = m
      · have : ¬m = n := fun h => hk (hm.trans h)
        simp [hm, this]
      · simp [hm]

theorem updateName_names {α : Type} (n : VarName) (v : α) (l : List (VarName × α)) :
    (updateName n v l).map Prod.fst = l.map Prod.fst := by
  induction l with
  | nil => rfl
  | cons p rest ih =>
    obtain ⟨k, w⟩ := p
    unfold updateName
    split_ifs <;> simp [ih]

theorem lookupName_isSome {α : Type} (n : VarName) (l : List (VarName × α)) :
    (lookupName n l).isSome = true ↔ n ∈ l.map Prod.fst := by
  induction l with
  | nil => simp [lookupName]
  | cons p rest ih =>
    obtain ⟨k, w⟩ := p
    by_cases h : k = n
    · simp [lookupName, h]
    · have : ¬n = k := fun h' => h h'.symm
      simp [lookupName, h, ih, this]

theorem lookupName_mem {α : Type} {n : VarName} {l : List (VarName × α)} {v : α} (h : lookupName n l = some v) :
    (n, v) ∈ l := by
  induction l with
  | nil => simp [lookupName] at h
  | cons p rest ih =>
    obtain ⟨k, w⟩ := p
    unfold lookupName at h
    split_ifs at h with hk
    · simp only [Option.some.injEq] at h
      subst hk h
      exact List.mem_cons_self
    · exact List.mem_cons_of_mem _ (ih h)

/-- A write of one input changes the registers only. -/
theorem State.writeInput_eq (s : State) (n : VarName) (v : BitVec 64) :
    s.writeInput n v = { s with ins := (s.writeInput n v).ins } := by
  unfold State.writeInput
  split <;> rfl

theorem State.writeInput_names (s : State) (n : VarName) (v : BitVec 64) :
    (s.writeInput n v).ins.map Prod.fst = s.ins.map Prod.fst := by
  unfold State.writeInput
  split
  · exact updateName_names _ _ _
  · rfl

end Sys2Proof.Machine
end

