-- ==== Sys2Proof/Laws/Ops.lean ====
section
/-!
SUPPORT. One lemma per shared operation: what it can do, said once. Claims cite these and do not unfold the operations.
-/

namespace Sys2Proof.Machine

variable (s : State)

/-! ### Reports and gates -/

/-- The report of an error sends one frame and draws one text (60_exceptions.md R310). -/
theorem State.sendError_eq (seq : BitVec 16) (code : ErrorCode) : s.sendError seq code = s.afterError seq code := rfl

theorem State.report_eq (code : ErrorCode) : s.report code = s.afterReport code := rfl

/-- A report changes what was sent and nothing else. -/
theorem State.report_frame (code : ErrorCode) :
    s.report code = { s with hostOut := (s.report code).hostOut, freeCount := (s.report code).freeCount } := by
  unfold State.report
  split <;> rfl

@[simp] theorem State.report_edges (code : ErrorCode) : (s.report code).edges = s.edges := by
  rw [State.report_frame]
@[simp] theorem State.report_edge (code : ErrorCode) (e : Dir) : (s.report code).edge e = s.edge e := by
  rw [State.edge, State.report_edges]; rfl
@[simp] theorem State.report_params (code : ErrorCode) : (s.report code).params = s.params := by
  rw [State.report_frame]
@[simp] theorem State.report_t (code : ErrorCode) : (s.report code).t = s.t := by rw [State.report_frame]
@[simp] theorem State.report_bstat (code : ErrorCode) : (s.report code).bstat = s.bstat := by rw [State.report_frame]
@[simp] theorem State.report_session (code : ErrorCode) : (s.report code).session = s.session := by
  rw [State.report_frame]
@[simp] theorem State.report_pending (code : ErrorCode) : (s.report code).pending = s.pending := by
  rw [State.report_frame]
@[simp] theorem State.report_barrierOk (code : ErrorCode) : (s.report code).barrierOk = s.barrierOk := by
  rw [State.report_frame]; rfl

theorem State.betweenSteps_ready {s : State} (h : s.ready) (run : State → State) : s.betweenSteps run = run s := by
  unfold State.betweenSteps
  rw [if_neg]
  rintro (h' | h')
  · rw [h.1] at h'; cases h'
  · exact h' h.2

theorem State.betweenSteps_cases (run : State → State) :
    s.betweenSteps run = s ∨ (s.ready ∧ s.betweenSteps run = run s) := by
  by_cases h : s.halted ∨ s.pending ≠ 0
  · exact Or.inl (if_pos h)
  · have hr : s.ready := by
      simp only [not_or, not_not, Bool.not_eq_true] at h
      exact h
    exact Or.inr ⟨hr, State.betweenSteps_ready hr run⟩

theorem State.inSession_open {s : State} (h : s.session = true) (seq : BitVec 16) (run : State → State) :
    s.inSession seq run = run s := if_pos h

theorem State.command_ready {s : State} (h : s.readyInSession) (seq : BitVec 16) (run : State → State) :
    s.command seq run = run s := by
  rw [State.command, State.betweenSteps_ready h.1, State.inSession_open h.2]

/-- What a command that waits for the end of a STEP and needs a session can do. -/
theorem State.command_cases (seq : BitVec 16) (run : State → State) :
    s.command seq run = s ∨ (s.ready ∧ s.session = false ∧ s.command seq run = s.sendError seq .noSession)
      ∨ (s.readyInSession ∧ s.command seq run = run s) := by
  rcases s.betweenSteps_cases (fun s => s.inSession seq run) with h | ⟨h1, h2⟩
  · exact Or.inl h
  · by_cases hs : s.session = true
    · exact Or.inr (Or.inr ⟨⟨h1, hs⟩, h2.trans (State.inSession_open hs _ _)⟩)
    · refine Or.inr (Or.inl ⟨h1, by simpa using hs, h2.trans (if_neg hs)⟩)

/-! ### The barrier (42_seam_barrier.md R216 to R219) -/

theorem mem_allDirs (d : Dir) : d ∈ allDirs := by cases d <;> decide

/-- A claim about every direction is a claim about the four. -/
theorem Dir.forall_iff {P : Dir → Prop} : (∀ d, P d) ↔ ∀ d ∈ allDirs, P d :=
  ⟨fun h d _ => h d, fun h d => h d (mem_allDirs d)⟩

/-- `BARRIER_OK(t)` (R218). -/
theorem State.barrierOk_iff : s.barrierOk = true ↔ ∀ e, (s.edge e).linked = true → s.t ≤ (s.edge e).rxNext := by
  simp only [State.barrierOk, List.all_eq_true, mem_allDirs, true_implies, Bool.or_eq_true, Bool.not_eq_true',
    decide_eq_true_eq]
  refine forall_congr' fun e => ?_
  cases (s.edge e).linked <;> simp

theorem State.barrierOk_of_start {s : State} (h : s.t = 0) : s.barrierOk = true :=
  (s.barrierOk_iff).2 fun _ _ => by omega

theorem State.barrierOk_of_unlinked {s : State} (h : ∀ e, (s.edge e).linked = false) : s.barrierOk = true :=
  (s.barrierOk_iff).2 fun e he => by rw [h e] at he; cases he

theorem State.edgeMissing_iff (e : Dir) :
    s.edgeMissing e = true ↔ (s.edge e).linked = true ∧ (s.edge e).rxNext < s.t := by
  simp [State.edgeMissing]

theorem State.unblock_cases :
    (s.bstat.blocked = true ∧ s.barrierOk = true ∧ s.unblock = s.clearBarrier)
      ∨ (¬(s.bstat.blocked = true ∧ s.barrierOk = true) ∧ s.unblock = s) := by
  unfold State.unblock
  by_cases h : (s.bstat.blocked && s.barrierOk) = true
  · rw [if_pos h]
    rw [Bool.and_eq_true] at h
    exact Or.inl ⟨h.1, h.2, rfl⟩
  · rw [if_neg h]
    rw [Bool.and_eq_true] at h
    exact Or.inr ⟨h, rfl⟩

/-- Unblocking changes the barrier status and nothing else. -/
theorem State.unblock_frame : s.unblock = { s with bstat := s.unblock.bstat } := by
  rcases s.unblock_cases with ⟨_, _, h⟩ | ⟨_, h⟩
  · rw [h]; rfl
  · rw [h]

/-- Blame changes the barrier's reason and nothing else (R217). -/
theorem State.blame_frame (e : Dir) (k : FaultKind) :
    s.blame e k = { s with bstat := { s.bstat with reason := (s.blame e k).bstat.reason } } := by
  unfold State.blame
  split <;> rfl

/-! ### Sending frames at commit (R207) -/

theorem State.emitFrame_edge (e e' : Dir) (f : Nat) : (s.emitFrame e f).edge e' =
    if e' = e then { s.edge e with tx := lastTwo ((s.edge e).tx ++ [(f, encodeSeam (s.frameOf e f))]) } else s.edge e' := by
  unfold State.emitFrame
  rw [State.sendSeam_edge, State.setEdge_edge]

/-- Emission changes the edges and what was sent, and nothing else. -/
theorem State.emitIfLinked_frame (e : Dir) (f : Nat) : s.emitIfLinked e f =
    { s with edges := (s.emitIfLinked e f).edges, seamOut := (s.emitIfLinked e f).seamOut } := by
  unfold State.emitIfLinked
  split <;> rfl

theorem State.emitIfLinked_edge (e e' : Dir) (f : Nat) : (s.emitIfLinked e f).edge e' =
    if e' = e ∧ (s.edge e).linked = true then
      { s.edge e with tx := lastTwo ((s.edge e).tx ++ [(f, encodeSeam (s.frameOf e f))]) }
    else s.edge e' := by
  unfold State.emitIfLinked
  by_cases h : (s.edge e).linked = true
  · simp [h, State.emitFrame_edge]
  · simp [h]

@[simp] theorem State.emitIfLinked_params (e : Dir) (f : Nat) : (s.emitIfLinked e f).params = s.params := by
  rw [State.emitIfLinked_frame]
@[simp] theorem State.emitIfLinked_cur (e : Dir) (f : Nat) : (s.emitIfLinked e f).cur = s.cur := by
  rw [State.emitIfLinked_frame]

/-- A frame's content depends on the geometry and the committed outputs only (R205, R207). -/
theorem State.frameOf_congr {s s' : State} (hp : s'.params = s.params) (hc : s'.cur = s.cur) (e : Dir) (f : Nat) :
    s'.frameOf e f = s.frameOf e f := by
  simp only [State.frameOf, State.laneValue, State.curAt, hp, hc]

/-- The frames of one tick, on the linked edges in edge order (41_tick.md R170). -/
theorem State.emitAll_eq (f : Nat) : s.emitAll f =
    (((s.emitIfLinked .north f).emitIfLinked .east f).emitIfLinked .south f).emitIfLinked .west f := rfl

theorem State.emitAll_frame (f : Nat) :
    s.emitAll f = { s with edges := (s.emitAll f).edges, seamOut := (s.emitAll f).seamOut } := by
  rw [State.emitAll_eq, State.emitIfLinked_frame, State.emitIfLinked_frame, State.emitIfLinked_frame,
    State.emitIfLinked_frame]

/-- What the emission of a tick leaves on each edge. -/
theorem State.emitAll_edge (f : Nat) (e : Dir) : (s.emitAll f).edge e =
    if (s.edge e).linked = true then
      { s.edge e with tx := lastTwo ((s.edge e).tx ++ [(f, encodeSeam (s.frameOf e f))]) }
    else s.edge e := by
  rw [State.emitAll_eq]
  have hf : ∀ (a : State) (d : Dir), (a.emitIfLinked d f).frameOf e f = a.frameOf e f := fun a d =>
    State.frameOf_congr (by simp) (by simp) e f
  cases e <;> simp [State.emitIfLinked_edge, hf]

theorem State.emitIfLinked_seamOut (e : Dir) (f : Nat) : (s.emitIfLinked e f).seamOut =
    s.seamOut ++ (if (s.edge e).linked = true then [(e, encodeSeam (s.frameOf e f))] else []) := by
  unfold State.emitIfLinked
  split <;> simp [State.emitFrame]

/-- The frames a tick sends. -/
theorem State.emitAll_seamOut (f : Nat) : (s.emitAll f).seamOut =
    s.seamOut ++ (allDirs.filter fun e => (s.edge e).linked).map fun e => (e, encodeSeam (s.frameOf e f)) := by
  rw [State.emitAll_eq]
  have hf : ∀ (a : State) (d e : Dir), (a.emitIfLinked d f).frameOf e f = a.frameOf e f := fun a d e =>
    State.frameOf_congr (by simp) (by simp) e f
  simp only [State.emitIfLinked_seamOut, State.emitIfLinked_edge, hf, allDirs]
  by_cases h1 : (s.edge .north).linked = true <;> by_cases h2 : (s.edge .east).linked = true <;>
    by_cases h3 : (s.edge .south).linked = true <;> by_cases h4 : (s.edge .west).linked = true <;>
    simp [h1, h2, h3, h4]

/-! ### TICK (R170) -/

theorem State.tickEnabled_iff : s.tickEnabled = true ↔ s.halted = false ∧ 0 < s.pending ∧ s.barrierOk = true := by
  simp [State.tickEnabled, and_assoc]

/-- Everything a tick writes. -/
theorem State.tickBody_frame : s.tickBody =
    { s with
      nxt := s.nextBuffer
      cur := s.nextBuffer
      edges := (s.commitTick.emitAll s.t).edges
      seamOut := (s.commitTick.emitAll s.t).seamOut
      t := s.t + 1
      pending := s.pending - 1
      bstat := BarrierStatus.clear
      reported := none } := by
  unfold State.tickBody
  rw [State.emitAll_frame]
  rfl

theorem State.tickBody_curAt {c : Coord} (h : inRegion s.params c = true) : s.tickBody.curAt c = s.nextOutputs c := by
  rw [State.tickBody_frame]
  exact s.commitTick_curAt h

theorem State.tickBody_edge (e : Dir) : s.tickBody.edge e =
    if (s.edge e).linked = true then
      { s.edge e with tx := lastTwo ((s.edge e).tx ++ [(s.t, encodeSeam (s.commitTick.frameOf e s.t))]) }
    else s.edge e := by
  rw [State.tickBody_frame]
  exact s.commitTick.emitAll_edge s.t e

theorem exec_tick_enabled {s : State} (h : s.tickEnabled = true) : exec .tick s = .next s.tickBody := by
  simp [exec, execTick, State.tickIfEnabled, h]

theorem exec_tick_disabled {s : State} (h : s.tickEnabled = false) : exec .tick s = .next s := by
  simp [exec, execTick, State.tickIfEnabled, h]

/-! ### Runs of ticks and of commands -/

theorem runTicks_succ {s t : State} (h : exec .tick s = .next t) (n : Nat) : runTicks (n + 1) s = runTicks n t := by
  rw [runTicks, h]

theorem runTicks_add {s u : State} {n : Nat} (h : runTicks n s = .next u) (m : Nat) : runTicks (n + m) s = runTicks m u := by
  induction n generalizing s with
  | zero =>
    cases h
    rw [Nat.zero_add]
  | succ n ih =>
    obtain ⟨v, hv⟩ : ∃ v, exec .tick s = .next v := ⟨_, rfl⟩
    rw [runTicks_succ hv] at h
    rw [Nat.succ_add, runTicks_succ hv, ih h]

theorem runCommands_append {is : List Instr} {s u : State} (h : runCommands is s = .next u) (js : List Instr) :
    runCommands (is ++ js) s = runCommands js u := by
  induction is generalizing s with
  | nil =>
    cases h
    rfl
  | cons i is ih =>
    simp only [List.cons_append, runCommands] at h ⊢
    cases hi : runCommand i s with
    | next v =>
      rw [hi] at h
      exact ih h
    | fault f => rw [hi] at h; cases h
    | refused r => rw [hi] at h; cases h

theorem numbered_append (seq : BitVec 16) (a b : List Command) :
    numbered seq (a ++ b) = numbered seq a ++ numbered (seq + BitVec.ofNat 16 a.length) b := by
  induction a generalizing seq with
  | nil => simp [numbered]
  | cons c a ih =>
    simp only [List.cons_append, numbered, ih, List.length_cons]
    congr 3
    apply BitVec.eq_of_toNat_eq
    simp
    omega

theorem mem_numbered {seq : BitVec 16} {cs : List Command} {i : Instr} (h : i ∈ numbered seq cs) :
    ∃ c ∈ cs, ∃ n, i = c n := by
  induction cs generalizing seq with
  | nil => cases h
  | cons c cs ih =>
    rcases List.mem_cons.1 h with h | h
    · exact ⟨c, by simp, _, h⟩
    · obtain ⟨c', h1, h2⟩ := ih h
      exact ⟨c', by simp [h1], h2⟩

/-! ### STALL (R219) -/

theorem State.stallEnabled_iff : s.stallEnabled = true ↔ s.halted = false ∧ 0 < s.pending ∧ s.barrierOk = false ∧
    (s.reported = some s.t → s.bstat.blocked = false) := by
  simp only [State.stallEnabled, Bool.and_eq_true, Bool.or_eq_true, Bool.not_eq_true', decide_eq_true_eq, and_assoc]
  refine and_congr_right fun _ => and_congr_right fun _ => and_congr_right fun _ => ?_
  by_cases h : s.reported = some s.t <;> simp [h]

/-- What STALL can do: nothing; the status and the report; the status alone (log 9). -/
theorem State.exec_stall_cases :
    (s.stallEnabled = false ∧ exec .stall s = .next s)
      ∨ (s.stallEnabled = true ∧ s.reported ≠ some s.t ∧
          exec .stall s = .next (State.afterReport { s with bstat := s.blockedStatus, reported := some s.t } .missing))
      ∨ (s.stallEnabled = true ∧ s.reported = some s.t ∧ exec .stall s = .next { s with bstat := s.blockedStatus }) := by
  unfold exec execStall
  cases he : s.stallEnabled with
  | false => exact Or.inl ⟨rfl, rfl⟩
  | true =>
    refine Or.inr ?_
    by_cases hr : s.reported = some s.t
    · exact Or.inr ⟨rfl, hr, by simp [State.enterStall, hr]⟩
    · refine Or.inl ⟨rfl, hr, ?_⟩
      simp only [if_true, State.enterStall, if_neg hr, State.report, State.afterReport, State.sendError, State.afterError,
        State.sendHost]
      split <;> rfl

theorem State.afterReport_bstat (code : ErrorCode) : (s.afterReport code).bstat = s.bstat := by
  rw [← State.report_eq, State.report_bstat]

/-! ### Seam reception (R210 to R217) -/

/-- What a seam port can do with delivered bytes. -/
theorem State.receiveParsed_cases (e : Dir) (frame : Option SeamFrame) :
    ((s.halted = true ∨ (s.edge e).linked = false) ∧ s.receiveParsed e frame = s)
      ∨ (s.halted = false ∧ (s.edge e).linked = true ∧ frame = none ∧
          s.receiveParsed e frame = s.seamFault e .frameCorrupt)
      ∨ (∃ f k, s.halted = false ∧ (s.edge e).linked = true ∧ frame = some f ∧ s.frameVerdict e f = some k ∧
          s.receiveParsed e frame = s.seamFault e k)
      ∨ (∃ f, s.halted = false ∧ (s.edge e).linked = true ∧ frame = some f ∧ s.frameVerdict e f = none ∧
          s.receiveParsed e frame = s.acceptFrame e f) := by
  unfold State.receiveParsed
  by_cases h : s.halted = true ∨ (s.edge e).linked = false
  · exact Or.inl ⟨h, if_pos h⟩
  · rw [if_neg h]
    simp only [not_or, Bool.not_eq_true, Bool.not_eq_false] at h
    obtain ⟨h1, h2⟩ := h
    cases frame with
    | none => exact Or.inr (Or.inl ⟨h1, h2, rfl, rfl⟩)
    | some f =>
      cases hv : s.frameVerdict e f with
      | none => exact Or.inr (Or.inr (Or.inr ⟨f, h1, h2, rfl, hv, by simp [hv]⟩))
      | some k => exact Or.inr (Or.inr (Or.inl ⟨f, k, h1, h2, rfl, hv, by simp [hv]⟩))

/-- A rejected frame changes the counters of its edge, the barrier's reason and what was sent (R217). -/
theorem State.seamFault_frame (e : Dir) (k : FaultKind) : s.seamFault e k =
    { s with
      edges := s.edges.set e { s.edge e with fcount := (s.edge e).fcount.bump k }
      bstat := { s.bstat with reason := (s.seamFault e k).bstat.reason }
      hostOut := (s.seamFault e k).hostOut
      freeCount := (s.seamFault e k).freeCount } := by
  unfold State.seamFault
  rw [State.report_frame, State.blame_frame]
  rfl

/-- An accepted frame changes its edge and the barrier status (R216). -/
theorem State.acceptFrame_frame (e : Dir) (f : SeamFrame) : s.acceptFrame e f =
    { s with edges := s.edges.set e ((s.edge e).accept f), bstat := (s.acceptFrame e f).bstat } := by
  unfold State.acceptFrame
  rw [State.unblock_frame]
  rfl

/-! ### The control port (43_host_commands.md R241) -/

/-- The constructors a control frame decodes to. -/
def Instr.isControl : Instr → Bool
  | .hello _ _ _ _ _ | .loadChunk _ _ _ _ _ | .apply _ | .step _ _ | .setInputs _ _ | .getOutputs _ _ | .outputs _ _
  | .quit _ | .shutdown _ | .link _ _ | .unlink _ _ | .linkAck _ _ | .error _ _ | .unknownType _ _ _ => true
  | .seamFrame _ _ | .bitstreamHeader _ _ _ | .evalLut _ _ | .resolve _ | .index _ | .evalCell _ | .tick | .cycle
  | .emitFrame _ _ | .resend _ _ _ | .seamReceive _ _ | .stall | .seamRead _ _ | .substituteHeld _ | .controlStep
  | .commit _ | .reset _ _ => false

/-- The control port's execution of a decoded frame is `exec`. -/
theorem executeFrame_eq_exec {i : Instr} (h : Instr.isControl i = true) (s : State) : executeFrame i s = exec i s := by
  cases i <;> first | rfl | exact absurd h (by simp [Instr.isControl])

theorem decodePayload_isControl {seq : BitVec 16} {type : Byte} {p : Bytes} {i : Instr}
    (h : decodePayload seq type p = .instr i) : Instr.isControl i = true := by
  unfold decodePayload at h
  dsimp only at h
  split at h <;> (try split at h) <;> first
    | (injection h with h; subst h; rfl)
    | exact absurd h (by simp)

theorem decodeControl_isControl {frame : Bytes} {i : Instr} (h : decodeControl frame = .instr i) :
    Instr.isControl i = true := by
  unfold decodeControl at h
  split_ifs at h
  exact decodePayload_isControl h

end Sys2Proof.Machine
end

