-- ==== Sys2Proof/Laws/PerInstr.lean ====
section
/-!
SUPPORT. One statement about every instruction as syntax, made per constructor: the length of its encoding (30_encoding.md R90,
R110 to R131), none for an operation that has no encoding.
-/

namespace Sys2Proof.Laws

/-- The bytes of a TLV list: `9 + name_len` each (R113). -/
def tlvLength (es : List TlvEntry) : Nat := (es.map fun t => 9 + t.name.length).sum

/-- The length of an instruction's encoding: 15 header bytes and the payload of its type (R110, R114 to R126), `18 + 3·n` for a
seam frame of n lanes (R130), 24 header bytes and the payload for a bitstream (R101). -/
def encodedLength : Instr → Option Nat
  | .hello _ _ _ _ _ => some 24
  | .loadChunk _ _ _ _ chunk => some (31 + chunk.length)
  | .apply _ => some 15
  | .step _ _ => some 19
  | .setInputs _ es => some (15 + tlvLength es)
  | .getOutputs _ es => some (15 + tlvLength es)
  | .outputs _ p => some (15 + p.length)
  | .quit _ => some 15
  | .shutdown _ => some 15
  | .link _ _ => some 16
  | .unlink _ _ => some 16
  | .linkAck _ p => some (15 + p.length)
  | .error _ p => some (15 + p.length)
  | .unknownType _ _ p => some (15 + p.length)
  | .seamFrame _ f => some (18 + 3 * f.lanes.length)
  | .bitstreamHeader _ _ p => some (24 + p.length)
  | .evalLut _ _ | .resolve _ | .index _ | .evalCell _ | .tick | .cycle | .emitFrame _ _ | .resend _ _ _
  | .seamReceive _ _ | .stall | .seamRead _ _ | .substituteHeld _ | .controlStep | .commit _ | .reset _ _ => none

theorem controlFrame_length (v type : Byte) (seq : BitVec 16) (p : Bytes) :
    (controlFrame v type seq p).length = 15 + p.length := by
  simp [controlFrame, Config.controlMagic]
  omega

theorem encodeTlv_length (es : List TlvEntry) : (encodeTlv es).length = tlvLength es := by
  induction es with
  | nil => rfl
  | cons t ts ih =>
    simp only [encodeTlv, tlvLength] at ih
    simp only [encodeTlv, tlvLength, List.flatMap_cons, List.length_append, ih, List.map_cons, List.sum_cons, encodeTlvEntry,
      List.length_cons, leBytes_length]
    omega

theorem encodeSeam_length (f : SeamFrame) : (encodeSeam f).length = 18 + 3 * f.lanes.length := by
  have h : (f.lanes.flatMap fun l => leBytes 2 l.lane.toNat ++ [l.value.setWidth 8]).length = 3 * f.lanes.length := by
    induction f.lanes with
    | nil => rfl
    | cons l ls ih => simp only [List.flatMap_cons, List.length_append, ih]; simp; omega
  simp only [encodeSeam, seamBody, Config.seamMagic, List.length_append, h, leBytes_length, List.length_cons, List.length_nil]
  omega

theorem encodeBitstream_length (h : BitstreamHeader) (p : Bytes) : (encodeBitstream h p).length = 24 + p.length := by
  simp [encodeBitstream, Config.bitstreamMagic]
  omega

/-- The encoding of `i`, where it has one, is as long as the spec's formats say. -/
def EncodedLength.Statement (i : Instr) : Prop :=
  (encode i).map (fun enc => enc.bytes.length) = encodedLength i

namespace EncodedLength

theorem hello (seq w h : BitVec 16) (v : Byte) (f : BitVec 32) : Statement (.hello seq w h v f) := by
  simp [Statement, encode, encodedControl, encodedLength, controlFrame_length]
theorem loadChunk (seq : BitVec 16) (sid total off : BitVec 32) (chunk : Bytes) :
    Statement (.loadChunk seq sid total off chunk) := by
  simp [Statement, encode, encodedControl, encodedLength, controlFrame_length]
  omega
theorem apply (seq : BitVec 16) : Statement (.apply seq) := by
  simp [Statement, encode, encodedControl, encodedLength, controlFrame_length]
theorem step (seq : BitVec 16) (ticks : BitVec 32) : Statement (.step seq ticks) := by
  simp [Statement, encode, encodedControl, encodedLength, controlFrame_length]
theorem setInputs (seq : BitVec 16) (es : List TlvEntry) : Statement (.setInputs seq es) := by
  simp [Statement, encode, encodedControl, encodedLength, controlFrame_length, encodeTlv_length]
theorem getOutputs (seq : BitVec 16) (es : List TlvEntry) : Statement (.getOutputs seq es) := by
  simp [Statement, encode, encodedControl, encodedLength, controlFrame_length, encodeTlv_length]
theorem outputs (seq : BitVec 16) (p : Bytes) : Statement (.outputs seq p) := by
  simp [Statement, encode, encodedControl, encodedLength, controlFrame_length]
theorem quit (seq : BitVec 16) : Statement (.quit seq) := by
  simp [Statement, encode, encodedControl, encodedLength, controlFrame_length]
theorem shutdown (seq : BitVec 16) : Statement (.shutdown seq) := by
  simp [Statement, encode, encodedControl, encodedLength, controlFrame_length]
theorem link (seq : BitVec 16) (e : Byte) : Statement (.link seq e) := by
  simp [Statement, encode, encodedControl, encodedLength, controlFrame_length]
theorem unlink (seq : BitVec 16) (e : Byte) : Statement (.unlink seq e) := by
  simp [Statement, encode, encodedControl, encodedLength, controlFrame_length]
theorem linkAck (seq : BitVec 16) (p : Bytes) : Statement (.linkAck seq p) := by
  simp [Statement, encode, encodedControl, encodedLength, controlFrame_length]
theorem error (seq : BitVec 16) (p : Bytes) : Statement (.error seq p) := by
  simp [Statement, encode, encodedControl, encodedLength, controlFrame_length]
theorem unknownType (seq : BitVec 16) (type : Byte) (p : Bytes) : Statement (.unknownType seq type p) := by
  simp [Statement, encode, encodedControl, encodedLength, controlFrame_length]
theorem seamFrame (d : Dir) (f : SeamFrame) : Statement (.seamFrame d f) := by
  simp [Statement, encode, encodedLength, encodeSeam_length]
theorem bitstreamHeader (seq : BitVec 16) (h : BitstreamHeader) (p : Bytes) : Statement (.bitstreamHeader seq h p) := by
  simp [Statement, encode, encodedLength, encodeBitstream_length]
theorem evalLut (table : Table) (idx : Nibble) : Statement (.evalLut table idx) := rfl
theorem resolve (src : Source) : Statement (.resolve src) := rfl
theorem index (c : Coord) : Statement (.index c) := rfl
theorem evalCell (c : Coord) : Statement (.evalCell c) := rfl
theorem tick : Statement .tick := rfl
theorem cycle : Statement .cycle := rfl
theorem emitFrame (e : Dir) (f : Nat) : Statement (.emitFrame e f) := rfl
theorem resend (e : Dir) (epoch : BitVec 32) (phase : Byte) : Statement (.resend e epoch phase) := rfl
theorem seamReceive (e : Dir) (frame : Bytes) : Statement (.seamReceive e frame) := rfl
theorem stall : Statement .stall := rfl
theorem seamRead (c : Coord) (out : Dir) : Statement (.seamRead c out) := rfl
theorem substituteHeld (e : Dir) : Statement (.substituteHeld e) := rfl
theorem controlStep : Statement .controlStep := rfl
theorem commit (ts : List (PerDir Table)) : Statement (.commit ts) := rfl
theorem reset (p : Params) (g : Program) : Statement (.reset p g) := rfl

end EncodedLength

end Sys2Proof.Laws
end

