-- ==== Sys2Proof/Tests/Slice0.lean ====
section
/-!
SUPPORT. The model's own tests: ill-formed terms that the static checks refuse, words written out in spec/30_encoding.md's layout
and spec/95_test_vectors.md's bytes with the instruction each decodes to, one-step tests whose expected results are those of
spec/95_test_vectors.md, and a witness for the hypotheses of each statement of Certificates/Slice0/Obligations.lean.
-/

-- One thread: each `decide` waits on the kernel, and the waiting threads' stacks would add up.
set_option Elab.async false

namespace Sys2Proof.Tests

open Sys2Proof Sys2Proof.Machine

/-! ### Helpers -/

/-- `n` bytes written as one number, the first byte most significant. -/
def hex (n v : Nat) : Bytes := (leBytes n v).reverse

/-- The next state of an outcome, none where it stops. -/
def next? : Host.Outcome State Fault Refusal → Option State
  | .next s => some s
  | .fault _ => none
  | .refused _ => none

/-- Why an outcome is refused. -/
def refusal? : Host.Outcome State Fault Refusal → Option Refusal
  | .refused r => some r
  | .next _ => none
  | .fault _ => none

/-- Why an outcome is a fault. -/
def fault? : Host.Outcome State Fault Refusal → Option Fault
  | .fault f => some f
  | .next _ => none
  | .refused _ => none

/-- The state after an instruction that ends in a next state. -/
def after (i : Instr) (s : State) : State := (next? (exec i s)).getD s

/-- Launch parameters with MAX_UPLOAD_BYTES = 2^20 and FEATURES = 1. -/
def tile (gw gh tw th ox oy : Nat) (policy : SeamPolicy) : Params := ⟨gw, gh, tw, th, ox, oy, 1048576, 1, policy⟩

/-- The names x, y, z, w, a, b. -/
def x : VarName := [0x78]
def y : VarName := [0x79]
def z : VarName := [0x7A]
def w : VarName := [0x77]
def a : VarName := [0x61]
def b : VarName := [0x62]

/-- A cell record of a Program. -/
def cell (cx cy : Int) (outputs : List Int) (pins : List RawSource) : CellRecord := ⟨cx, cy, outputs, some pins, false⟩

/-- `ROUTE4 W->E` and `ROUTE4 E->W` records. -/
def eastward (cx cy : Int) (src : RawSource) : CellRecord := cell cx cy [0, 0xFF00, 0, 0] [.null, .null, .null, src]
def westward (cx cy : Int) (src : RawSource) : CellRecord := cell cx cy [0, 0, 0, 0xCCCC] [.null, src, .null, .null]

/-- The state right after a launch. -/
def launched (p : Params) (g : Program) : State := after (.reset p g) State.reset

/-- The default launch with a session open. -/
def idle : State := { State.reset with session := true }

/-- The chain of P1 (95 §3.1), launched. -/
def chainProgram : Program :=
  ⟨4, 2, 2, [eastward 0 0 (.input x 0), eastward 1 0 (.cell 0 0 1), eastward 2 0 (.cell 1 0 1)], [(x, 1)], [(y, [⟨2, 0, 1⟩])]⟩
def chainParams : Params := tile 4 2 4 2 0 0 .stall
def chainLaunch : State := launched chainParams chainProgram

/-- The chain with x = 1, a session and nine ticks to run. -/
def chain : State := { chainLaunch with session := true, ins := [(x, 1)], pending := 9 }

/-- The chain between STEPs. -/
def chainIdle : State := { chain with pending := 0 }

/-- The adder of P2 (95 §3.2). -/
def adderProgram : Program :=
  ⟨2, 2, 1,
    [cell 0 0 [0, 0x0096, 0x00E8, 0] [.null, .input a 0, .input b 0, .null],
      cell 0 1 [0, 0x0096, 0x00E8, 0] [.cell 0 0 2, .input a 1, .input b 1, .null]],
    [(a, 2), (b, 2)], [([0x73], [⟨0, 0, 1⟩, ⟨0, 1, 1⟩, ⟨0, 1, 2⟩])]⟩

/-- The ring of P3 (95 §3.3), with ticks to run. -/
def ringProgram : Program :=
  ⟨2, 2, 0,
    [cell 0 0 [0, 0x3333, 0, 0] [.null, .cell 1 0 3, .null, .null],
      cell 1 0 [0, 0, 0, 0xFF00] [.null, .null, .null, .cell 0 0 1]],
    [], [([0x6F], [⟨0, 0, 1⟩, ⟨1, 0, 3⟩])]⟩
def ring : State := { launched (tile 2 2 2 2 0 0 .stall) ringProgram with pending := 4 }

/-- The two tiles of P4 (95 §3.4) and the unsplit 4×2 Program. -/
def paramsA : Params := tile 4 2 2 2 0 0 .stall
def paramsB : Params := tile 4 2 2 2 2 0 .stall
def cellsA : List CellRecord :=
  [eastward 0 0 (.input x 0), eastward 1 0 (.cell 0 0 1), westward 1 1 (.cell 2 1 3), westward 0 1 (.cell 1 1 3)]
def cellsB : List CellRecord :=
  [eastward 2 0 (.cell 1 0 1), eastward 3 0 (.cell 2 0 1), westward 3 1 (.input z 0), westward 2 1 (.cell 3 1 3)]
def programA : Program := ⟨2, 2, 2, cellsA, [(x, 1), (z, 1)], [(w, [⟨0, 1, 3⟩])]⟩
def programB : Program := ⟨2, 2, 2, cellsB, [(x, 1), (z, 1)], [(y, [⟨3, 0, 1⟩])]⟩
def programGrid : Program := ⟨4, 2, 2, cellsA ++ cellsB, [(x, 1), (z, 1)], [(w, [⟨0, 1, 3⟩]), (y, [⟨3, 0, 1⟩])]⟩

/-- A tile of P4 after HELLO, LINK of its edge, SET_INPUTS and STEP 4. -/
def started (p : Params) (g : Program) (e : Byte) : State :=
  { after (.link 2 e) { launched p g with session := true } with ins := [(x, 1), (z, 1)], pending := 4 }
def tileA : State := started paramsA programA 1
def tileB : State := started paramsB programB 3

/-- Tile B blocked at t = 1, its stall reported (95 §2.11 step 1). -/
def blockedB : State := after .stall (after .tick tileB)

/-- Tile B of the fault scenario, waiting for A1 at t = 2 (95 §2.11 steps 3 to 9). -/
def waitingB : State :=
  { blockedB with
    t := 2, pending := 2, bstat := ⟨true, 0b1000, 1, .missing⟩, reported := some 2
    edges := blockedB.edges.set .west { blockedB.edge .west with rxNext := 1 } }

/-- The seam frames of 95 §3.4. -/
def frameA0 : Bytes := hex 21 0x4247534601010000000000000100010000EF90E575
def frameA1 : Bytes := hex 21 0x42475346010101000000000001000000023444A75B
def frameA2 : Bytes := hex 21 0x42475346010100000100000001000100089E0C456C
def frameB0 : Bytes := hex 21 0x424753460103000000000000010000000047641C98
/-- A1 with its last CRC byte changed. -/
def frameA1bad : Bytes := hex 21 0x42475346010101000000000001000000023444A7A4
/-- Epoch 2, phase 1, and epoch 2, phase 0 with the lane of phase 1, and the sender edge W (95 §2.11, synthetic). -/
def frameWrongPhase : Bytes := hex 21 0x42475346010101000200000001000000009E0D5F9B
def frameWrongLane : Bytes := hex 21 0x42475346010100000200000001000000005ED2D15A
def frameWrongEdge : Bytes := hex 21 0x4247534601030000020000000100010000F62628B7

/-- The bitstream H of 95 §2.10 and its header, and the two payload bytes of the four N tables. -/
def payloadH : Bytes :=
  [1] ++ List.replicate 7 0 ++ [2] ++ List.replicate 7 0 ++ [3] ++ List.replicate 7 0 ++ [0x34, 0x12] ++ List.replicate 6 0
def headerH : Bytes := hex 24 0x4247425301001800020002000001000100009AF8E5E90000
def bitsH : Bytes := headerH ++ payloadH
def tablesH : List (PerDir Table) := [⟨1, 0, 0, 0⟩, ⟨2, 0, 0, 0⟩, ⟨3, 0, 0, 0⟩, ⟨0x1234, 0, 0, 0⟩]

/-- A state with a complete upload of `bs`. -/
def uploaded (bs : Bytes) : State := { idle with upload := some (uploadOf bs) }

/-! ### Static well-formedness: one ill-formed term for each check, refused -/

theorem test_wf_setInputs_empty : (Instr.setInputs 1 []).wf = false := by decide
theorem test_wf_name_empty : (Instr.getOutputs 1 [⟨[], 0⟩]).wf = false := by decide
theorem test_wf_name_long : (Instr.setInputs 1 [⟨List.replicate 256 0x78, 0⟩]).wf = false := by decide +kernel
theorem test_wf_name_longest : (Instr.setInputs 1 [⟨List.replicate 255 0x78, 0⟩]).wf = true := by decide +kernel
theorem test_wf_entries_large : (Instr.getOutputs 1 (List.replicate 6554 ⟨x, 0⟩)).wf = false := by decide +kernel
theorem test_wf_chunk_large (p : Bytes) (h : p.length = 65520) : (Instr.loadChunk 1 0 0 0 p).wf = false := by
  simp [Instr.wf, Config.maxPayload, h]
theorem test_wf_outputs_large (p : Bytes) (h : p.length = 65536) : (Instr.outputs 1 p).wf = false := by
  simp [Instr.wf, payloadOk, Config.maxPayload, h]
theorem test_wf_linkAck_large (p : Bytes) (h : p.length = 65536) : (Instr.linkAck 1 p).wf = false := by
  simp [Instr.wf, payloadOk, Config.maxPayload, h]
theorem test_wf_error_large (p : Bytes) (h : p.length = 65536) : (Instr.error 1 p).wf = false := by
  simp [Instr.wf, payloadOk, Config.maxPayload, h]
theorem test_wf_unknown_large (p : Bytes) (h : p.length = 65536) : (Instr.unknownType 1 0 p).wf = false := by
  simp [Instr.wf, payloadOk, Config.maxPayload, h]
theorem test_wf_unknown_known : (Instr.unknownType 1 0x0C []).wf = false := by decide
theorem test_wf_seam_lanes (lanes : List Lane) (h : lanes.length = 65536) :
    (Instr.seamFrame .west ⟨1, 0, 0, lanes⟩).wf = false := by simp [Instr.wf, h]
theorem test_wf_resolve_name : (Instr.resolve (.input [] 0)).wf = false := by decide
theorem test_wf_resolve_bit : (Instr.resolve (.input x 64)).wf = false := by decide
theorem test_wf_reset_odd_width : (Instr.reset (tile 3 2 3 2 0 0 .stall) Config.resetProgram).wf = false := by decide +kernel
theorem test_wf_reset_tile_outside : (Instr.reset (tile 4 2 4 2 2 0 .stall) Config.resetProgram).wf = false := by
  decide +kernel
theorem test_wf_reset_many_cells : (Instr.reset (tile 65534 65534 65534 65534 0 0 .stall) Config.resetProgram).wf = false := by
  decide +kernel
theorem test_wf_reset_small_upload : (Instr.reset { paramsA with maxUpload := 55 } Config.resetProgram).wf = false := by
  decide +kernel
theorem test_wf_reset_features : (Instr.reset { paramsA with features := 2 } Config.resetProgram).wf = false := by
  decide +kernel
theorem test_wf_reset_keys : (Instr.reset paramsA { programA with inputBits := [(x, 1), (x, 2)] }).wf = false := by
  decide +kernel

/-! ### Decoding: a word of the spec for every encoded constructor (95 §2.9, §2.10, §3) -/

theorem test_decode_hello : decode .control (hex 24 0x424743460101000100090056914661020002000101000000) =
    .instr (.hello 1 2 2 1 1) := by decide +kernel
theorem test_decode_loadChunk :
    decode .control (hex 47 0x4247434601020007002000B04B4DDA0700000020000000180000001000000000000000000000000000000000000000) =
      .instr (.loadChunk 7 7 32 24 (List.replicate 16 0)) := by decide +kernel
theorem test_decode_apply : decode .control (hex 15 0x4247434601030002000000EF6E8617) = .instr (.apply 2) := by
  decide +kernel
theorem test_decode_step : decode .control (hex 19 0x42474346010400050004007315F1FF04000000) =
    .instr (.step 5 4) := by decide +kernel
theorem test_decode_setInputs :
    decode .control (hex 35 0x4247434601050005001400A1D32A290161020000000000000001620100000000000000) =
      .instr (.setInputs 5 [⟨a, 2⟩, ⟨b, 1⟩]) := by decide +kernel
theorem test_decode_getOutputs :
    decode .control (hex 25 0x4247434601060004000A00D02A815D01790000000000000000) =
      .instr (.getOutputs 4 [⟨y, 0⟩]) := by decide +kernel
theorem test_decode_getOutputs_all : decode .control (hex 15 0x424743460106000400000080A02062) =
    .instr (.getOutputs 4 []) := by decide +kernel
theorem test_decode_outputs : decode .control (hex 15 0x42474346010700030000009C4BAB34) = .instr (.outputs 3 []) := by
  decide +kernel
theorem test_decode_quit : decode .control (hex 15 0x42474346010800090000002D1940AA) = .instr (.quit 9) := by
  decide +kernel
theorem test_decode_shutdown : decode .control (hex 15 0x424743460109000900000088CA1C61) = .instr (.shutdown 9) := by
  decide +kernel
theorem test_decode_link : decode .control (hex 16 0x42474346010A0003000100E4C193D203) = .instr (.link 3 3) := by
  decide +kernel
theorem test_decode_unlink : decode .control (hex 16 0x42474346010B0008000100E26E509D04) = .instr (.unlink 8 4) := by
  decide +kernel
theorem test_decode_linkAck : decode .control (hex 17 0x42474346010C0002000200F57D002F0101) =
    .instr (.linkAck 2 [1, 1]) := by decide +kernel
theorem test_decode_error : decode .control (hex 17 0x42474346017F000300020043FECA730206) =
    .instr (.error 3 [0x02, 0x06]) := by decide +kernel
theorem test_decode_unknown : decode .control (hex 15 0x42474346010D00020000009F0F8C2D) =
    .instr (.unknownType 2 0x0D []) := by decide +kernel
theorem test_decode_seam : decode (.seam .west) frameA2 = .instr (.seamFrame .west ⟨1, 0, 1, [⟨1, 8⟩]⟩) := by decide +kernel
theorem test_decode_bitstream : decode (.bitstream 2) bitsH =
    .instr (.bitstreamHeader 2 ⟨2, 2, 0, 1, 256, 0xE9E5F89A, 0⟩ payloadH) := by decide +kernel

/-- Rejections by name: a changed byte (95 §2.9 row 3), version 2 (row 2), a STEP of length 3 (row 8), a corrupt seam frame. -/
theorem test_decode_rejects :
    decode .control (hex 24 0x42474346020100010009009CCF9360000000000100000000) = .rejected .notFramed ∧
    decode .control (hex 24 0x42474346020100010009006E7B5B49000000000100000000) = .rejected (.badVersion 1) ∧
    decode .control (hex 18 0x4247434601040004000300B06689E3010000) = .rejected (.malformedPayload 4 4) ∧
    decode (.seam .west) frameA1bad = .rejected .seamFrameCorrupt ∧
    decode (.bitstream 0) (bitsH.take 10) = .rejected .notBitstreamHeader := by decide +kernel

/-- The encoder writes the same bytes. -/
theorem test_encode :
    encode (.hello 1 0 0 1 0) =
      some ⟨.control, hex 24 0x42474346010100010009009CCF9360000000000100000000⟩ ∧
    encode (.seamFrame .west ⟨1, 0, 1, [⟨1, 8⟩]⟩) = some ⟨.seam .west, frameA2⟩ ∧
    encode (.bitstreamHeader 2 ⟨2, 2, 0, 1, 256, 0xE9E5F89A, 0⟩ payloadH) = some ⟨.bitstream 2, bitsH⟩ := by decide +kernel

/-- The CRC-32 check value of 30_encoding.md R104. -/
theorem test_crc : crc32 [0x31, 0x32, 0x33, 0x34, 0x35, 0x36, 0x37, 0x38, 0x39] = 0xCBF43926 := by decide +kernel

/-- A table word: the APPLY row's fixed bytes, completed as a sender completes them (log 2), decode and run as the first
instruction after reset; without a session the answer is NO_SESSION (R244). -/
theorem test_table_word :
    decodeTableWord 48 0x030146434742 = some (.apply 0) ∧
    (next? (step (State.reset.withFetchWord 48 0x030146434742))).map State.hostOut = some [.error 0 .noSession 0] := by
  decide +kernel

/-! ### One step of each instruction (expected results: 95_test_vectors.md) -/

/-- 95 §2.9 rows 5 and 4. -/
theorem test_hello :
    (after (.hello 1 0 0 1 0) State.reset).hostOut.map HostMsg.bytes =
      [hex 24 0x424743460101000100090056914661020002000101000000] ∧
    (after (.hello 1 0 0 1 0) State.reset).session = true := by decide +kernel
theorem test_hello_version : after (.hello 1 0 0 2 0) State.reset =
    { State.reset with hostOut := [.error 1 .badVersion 0], freeCount := 1 } := by decide +kernel

/-- 95 §2.9 row 9 and §3.5 @7: total above the limit, chunk past the total. -/
theorem test_loadChunk_refused :
    (after (.loadChunk 5 1 65 0 []) { idle with params := { Config.resetParams with maxUpload := 64 } }).hostOut =
      [.error 5 .uploadTooLarge 0] ∧
    (after (.loadChunk 7 7 32 24 (List.replicate 16 0)) idle).hostOut = [.error 7 .chunkOutOfRange 0] := by decide +kernel
/-- Overlapping chunks: the later byte stays (R247). -/
theorem test_loadChunk_overlap :
    (after (.loadChunk 6 7 4 1 [9, 8]) (after (.loadChunk 5 7 4 0 [1, 2]) idle)).upload =
      some ⟨7, 4, [(0, 1), (1, 9), (2, 8)]⟩ := by decide +kernel

/-- 95 §3.5 @2 and §2.10: no upload; H sets its tables. -/
theorem test_apply :
    (after (.apply 2) idle).hostOut = [.error 2 .incompleteUpload 0] ∧
    (after (.apply 2) (uploaded bitsH)).lut = tablesH ∧ (after (.apply 2) (uploaded bitsH)).hostOut = [] := by
  decide +kernel

/-- The mutations of H of 95 §2.10, each with its code, and the headerless payload. -/
def mutations : List (Bytes × ErrorCode) := [
  (bitsH.set 3 0x58, .badMagic), (bitsH.set 4 2, .badBitstreamVersion), (bitsH.set 6 23, .badHeaderSize),
  (bitsH.set 8 3, .badDimension), (bitsH.set 8 0, .badDimension), (bitsH.set 8 4, .dimensionMismatch),
  (bitsH.set 12 3, .badOrder), ((bitsH.set 14 255).set 15 0, .payloadLengthMismatch),
  (bitsH.take 55, .payloadLengthMismatch), (bitsH.set 24 0xFE, .crcMismatch), (bitsH.set 18 0x9B, .crcMismatch),
  (bitsH.take 10, .badHeaderSize), ((bitsH.set 3 0x58).set 4 2, .badMagic)]

theorem test_bitstream_mutations :
    mutations.map (fun m => decodeUpload Config.resetParams m.1) = mutations.map (fun m => .fail m.2) ∧
    [(bitsH.set 22 0xFF).set 23 0xFF, bitsH.set 13 0xFF, payloadH].map (decodeUpload Config.resetParams) =
      List.replicate 3 (.tables tablesH) := by decide +kernel

/-- The three scan orders and the MSB-first payload of 95 §2.10 give the same tables. -/
theorem test_bitstream_orders :
    ([(1, [1, 0, 0, 0, 0, 0, 0, 0, 3, 0, 0, 0, 0, 0, 0, 0, 2, 0, 0, 0, 0, 0, 0, 0, 0x34, 0x12, 0, 0, 0, 0, 0, 0], true),
      (2, [1, 0, 0, 0, 0, 0, 0, 0, 2, 0, 0, 0, 0, 0, 0, 0, 0x34, 0x12, 0, 0, 0, 0, 0, 0, 3, 0, 0, 0, 0, 0, 0, 0], true),
      (0, [0x80, 0, 0, 0, 0, 0, 0, 0, 0x40, 0, 0, 0, 0, 0, 0, 0, 0xC0, 0, 0, 0, 0, 0, 0, 0, 0x2C, 0x48, 0, 0, 0, 0, 0, 0],
        false)] : List (Nat × Bytes × Bool)).map (fun m => decodeTables m.2.1 m.1 2 2 m.2.2) = List.replicate 3 tablesH := by
  decide +kernel

/-- PACK writes the column-major header and payload of 95 §2.10 (CRC 0xC6A80C2C). -/
theorem test_pack : (pack tablesH 1 2 2).take 24 =
    hex 24 0x4247425301001800020002000101000100002C0CA8C60000 := by decide +kernel

/-- 95 §2.9 rows 1 and 13. -/
theorem test_step : (after (.step 1 1) State.reset).hostOut = [.error 1 .noSession 0] ∧ (after (.step 3 2) idle).pending = 2 := by
  decide +kernel
theorem test_setInputs : (after (.setInputs 9 [⟨x, 3⟩]) { chainIdle with ins := [(x, 0)] }).ins = [(x, 1)] ∧
    (after (.setInputs 12 [⟨x, 0⟩, ⟨[0x71], 1⟩]) chainIdle).ins = [(x, 1)] := by decide +kernel

/-- 95 §3.1 @6 and §3.2 @7: the values at the taps, bit 0 first. -/
theorem test_getOutputs :
    (after (.getOutputs 6 [⟨y, 0⟩]) { chainIdle with cur := [2, 2, 2, 0, 0, 0, 0, 0] }).hostOut.map HostMsg.bytes =
      [hex 25 0x4247434601070006000A00727F2DDE01790100000000000000] := by decide +kernel
theorem test_getOutputs_adder :
    (after (.getOutputs 7 []) { launched (tile 2 2 2 2 0 0 .stall) adderProgram with
        session := true, cur := [2, 0, 4, 0] }).hostOut = [.outputs 7 [⟨[0x73], 5⟩]] := by decide +kernel

/-- 95 §2.11, QUIT during a stall; §2.9 row 15. -/
theorem test_quit : after (.quit 7) blockedB =
    { blockedB with pending := 0, bstat := BarrierStatus.clear, session := false } := by decide +kernel
theorem test_shutdown : after (.shutdown 11) idle = { idle with session := false, halted := true } := by decide +kernel

/-- 95 §3.4 @2 and @3, §2.9: LINK E acknowledged, LINK W and a second LINK E refused. -/
theorem test_link :
    ((after (.link 2 1) { launched paramsA programA with session := true }).hostOut.map HostMsg.bytes) =
      [hex 17 0x42474346010C0002000200F57D002F0101] ∧
    (after (.link 3 3) { launched paramsA programA with session := true }).hostOut = [.error 3 .badEdge 0] := by
  decide +kernel
theorem test_link_refused :
    (after (.link 3 1) { tileA with pending := 0, hostOut := [] }).hostOut = [.error 3 .alreadyLinked 0] ∧
    (after (.link 3 1) { launched paramsA programA with session := true, t := 1 }).hostOut = [.error 3 .linkNotAtStart 0] := by
  decide +kernel

/-- 95 §2.9: UNLINK after LINK E, rows 11 and 12. -/
theorem test_unlink :
    (after (.unlink 5 1) { tileA with pending := 0, hostOut := [] }).hostOut = [.linkAck 5 1 0] ∧
    (after (.unlink 7 1) idle).hostOut = [.error 7 .notLinked 0] ∧
    (after (.unlink 8 4) idle).hostOut = [.error 8 .badEdge 0] := by decide +kernel

/-- 95 §2.9 rows 6 and 7. -/
theorem test_other_types :
    (after (.unknownType 2 0x0D []) idle).hostOut = [.error 2 .unknownType 0] ∧
    (after (.outputs 3 []) idle).hostOut = [.error 3 .unexpectedType 0] ∧
    (after (.linkAck 3 []) idle).hostOut = [.error 3 .unexpectedType 0] ∧
    (after (.error 3 []) idle).hostOut = [.error 3 .unexpectedType 0] := by decide +kernel

/-- 95 §2.10, as the row of the bitstream header. -/
theorem test_bitstreamHeader : (after (.bitstreamHeader 2 ⟨2, 2, 0, 1, 256, 0xE9E5F89A, 0⟩ payloadH) idle).lut = tablesH := by
  decide +kernel

/-- R264: a halted tile does not answer a failing bitstream. -/
theorem test_bitstreamHeader_halted : let s := after (.shutdown 1) idle
    after (.bitstreamHeader 2 ⟨2, 2, 3, 1, 256, 0xE9E5F89A, 0⟩ payloadH) s = s := by decide +kernel

/-- 95 §2.1. -/
theorem test_evalLut :
    ([(0x8888, 3), (0x8888, 2), (0x8888, 11), (0xEEEE, 0), (0x6666, 3), (0x5555, 0), (0x1234, 2), (0x1234, 12), (0x1234, 15),
      (0xFF00, 8), (0xFF00, 7), (0x9696, 7), (0x9696, 14), (0xE8E8, 3), (0xE8E8, 4), (0x00E8, 11)] :
        List (Table × Nibble)).map (fun v => (after (.evalLut v.1 v.2) State.reset).value) =
      [1, 0, 1, 0, 0, 1, 1, 1, 0, 1, 0, 1, 0, 1, 0, 0] := by decide +kernel

/-- The forwarding constants of 95 §1.1 and the gate tables of §2.1, §2.3. -/
theorem test_tables : [fwd .west, fwd .south, fwd .east, fwd .north] = [0xFF00, 0xF0F0, 0xCCCC, 0xAAAA] ∧
    [gateAnd, gateOr, gateXor, gateNotN, gateSum, gateMajority] = [0x8888, 0xEEEE, 0x6666, 0x5555, 0x9696, 0xE8E8] ∧
    route4 .west .east = ⟨0, 0xFF00, 0, 0⟩ := by decide +kernel

/-- The state of 95 §2.2: `in[a] = 2`, `cur[(1,0)] = [0,1,0,1]`. -/
def pinState : State := { State.reset with inDecl := [(a, 2)], ins := [(a, 2)], cur := [0, 0b1010, 0, 0] }

theorem test_resolve :
    ([.unwired, .const true, .input a 0, .input a 1, .cell ⟨1, 0⟩ .east, .cell ⟨1, 0⟩ .north, .cell ⟨1, 1⟩ .west] :
      List Source).map (fun v => (after (.resolve v) pinState).value) = [0, 1, 0, 1, 1, 0, 0] := by decide +kernel
theorem test_resolve_stops : fault? (exec (.resolve (.input a 2)) pinState) = some .sourceNotAdmitted ∧
    fault? (exec (.resolve (.cell ⟨2, 0⟩ .north)) pinState) = some .sourceNotAdmitted := by decide +kernel

/-- 95 §2.2: pins 1, 0, 1, 1 give 13 and INPUT(a,1) twice gives 3. -/
theorem test_index :
    (after (.index ⟨0, 0⟩) { pinState with src := [⟨.const true, .unwired, .const true, .const true⟩] }).value = 13 ∧
    (after (.index ⟨0, 0⟩) { pinState with src := [⟨.input a 1, .input a 1, .unwired, .unwired⟩] }).value = 3 := by
  decide +kernel

/-- 95 §2.3: the full adder's eight rows, `[0, sum, carry, 0]`. -/
theorem test_evalCell :
    (List.range 8).map (fun i =>
      (after (.evalCell ⟨0, 0⟩) { State.reset with
        lut := [⟨0, 0x0096, 0x00E8, 0⟩]
        src := [⟨.const (i.testBit 0), .const (i.testBit 1), .const (i.testBit 2), .unwired⟩] }).nxt) =
      [[0, 0, 0, 0], [2, 0, 0, 0], [2, 0, 0, 0], [4, 0, 0, 0], [2, 0, 0, 0], [4, 0, 0, 0], [4, 0, 0, 0], [6, 0, 0, 0]] := by
  decide +kernel

/-- 95 §2.4, tick 0: (0,0) takes x; (2,0) reads the pre-tick output of (1,0). §3.3, tick 0 of the ring. -/
theorem test_tick : (after .tick chain).cur = [2, 0, 0, 0, 0, 0, 0, 0] ∧ (after .tick chain).t = 1 ∧
    (after .tick chain).pending = 8 ∧ (after .tick ring).cur = [2, 0, 0, 0] := by decide +kernel
/-- 95 §2.4, ticks 1 and 2: the other parity holds. -/
theorem test_tick_odd : (after .tick { chain with t := 1, cur := [2, 0, 0, 0, 0, 0, 0, 0] }).cur = [2, 2, 0, 0, 0, 0, 0, 0] ∧
    (after .tick { chain with t := 2, cur := [2, 2, 0, 0, 0, 0, 0, 0] }).cur = [2, 2, 2, 0, 0, 0, 0, 0] := by decide +kernel

/-- 95 §3.1 after @3: one cycle moves the value two cells. -/
theorem test_cycle : (after .cycle chain).cur = [2, 2, 0, 0, 0, 0, 0, 0] ∧ (after .cycle chain).t = 2 := by decide +kernel

/-- 95 §3.4: tick 0 emits A0 and B0. -/
theorem test_tick_emits : (after .tick tileA).seamOut = [(.east, frameA0)] ∧ (after .tick tileB).seamOut = [(.west, frameB0)] := by
  decide +kernel
/-- 95 §3.4: frame A2, from (1,1).W = 1. -/
theorem test_emitFrame : (after (.emitFrame .east 2) { tileA with cur := [2, 2, 0, 8] }).seamOut = [(.east, frameA2)] := by
  decide +kernel

/-- 95 §2.11 step 8. -/
theorem test_resend :
    (after (.resend .east 0 1) { tileA with edges := tileA.edges.set .east { tileA.edge .east with tx := [(0, frameA0), (1, frameA1)] }
      }).seamOut = [(.east, frameA1)] := by decide +kernel

/-- 95 §2.11 steps 3, 5 and 6: the code, the reason and the counter of each rejected frame; the frame is discarded. -/
theorem test_seamReceive_rejects :
    [frameA1bad, frameA0, frameA2].map (fun f =>
      let t := after (.seamReceive .west f) { waitingB with hostOut := [], freeCount := 0 }
      (t.hostOut, t.bstat.reason, (t.edge .west).fcount, (t.edge .west).rxNext)) =
      [([.error 0 .frameCorrupt 0], .frameCorrupt, ⟨1, 0, 0, 0⟩, 1), ([.error 0 .duplicate 0], .duplicate, ⟨0, 0, 0, 1⟩, 1),
        ([.error 0 .epochMismatch 0], .epochMismatch, ⟨0, 1, 0, 0⟩, 1)] := by decide +kernel
/-- 95 §2.11 step 9 and §3.4: A1 is accepted, `half[W][1] = [2, 0]`, and the status clears. -/
theorem test_seamReceive_accepts :
    (after (.seamReceive .west frameA1) waitingB).edge .west =
      { waitingB.edge .west with half1 := [2, 0], rxNext := 2 } ∧
    (after (.seamReceive .west frameA1) waitingB).bstat = BarrierStatus.clear := by decide +kernel

/-- 95 §2.11, the synthetic frames: wrong phase, wrong lane set, wrong edge. -/
theorem test_seamReceive_synthetic :
    [frameWrongPhase, frameWrongLane, frameWrongEdge].map (fun f =>
      (after (.seamReceive .west f) { tileB with
        t := 4, pending := 0, hostOut := [], edges := tileB.edges.set .west { tileB.edge .west with rxNext := 4 } }).hostOut) =
      [[.error 0 .phaseMismatch 0], [.error 0 .frameCorrupt 0], [.error 0 .frameCorrupt 0]] := by decide +kernel

/-- The frame of the SEAM_FRAME row, A1, arrives on B's W port. -/
theorem test_seamFrame : ((after (.seamFrame .west ⟨1, 1, 0, [⟨0, 2⟩]⟩) waitingB).edge .west).half1 = [2, 0] := by decide +kernel

/-- 95 §2.11 step 1: B's status and its one report. -/
theorem test_stall : blockedB.bstat = ⟨true, 0b1000, 0, .missing⟩ ∧ blockedB.reported = some 1 ∧
    blockedB.hostOut = tileB.hostOut ++ [.error 0 .missing 0] := by decide +kernel

/-- STALL again at the tick a QUIT abandoned, after HELLO and a new STEP: the status shows the block, and no second report leaves
(10_state.md R41, R45; log 9). -/
theorem test_stall_after_quit :
    let again := after (.step 9 2) (after (.hello 8 0 0 1 0) (after (.quit 7) blockedB))
    again.bstat = BarrierStatus.clear ∧ again.reported = some 1 ∧
    after .stall again = { again with bstat := ⟨true, 0b1000, 0, .missing⟩ } := by decide +kernel

/-- 95 §2.2, seam dispatch: bit W of `half[E][1][1] = 8` in tile A. -/
theorem test_seamRead :
    (after (.seamRead ⟨2, 1⟩ .west) { tileA with
      edges := tileA.edges.set .east { tileA.edge .east with half1 := [0, 8] } }).value = 1 := by decide +kernel
theorem test_seamRead_stops : fault? (exec (.seamRead ⟨1, 1⟩ .west) tileA) = some .notSeamCoordinate := by decide +kernel

/-- 95 §2.11, substitution at t = 1. -/
theorem test_substituteHeld :
    let s := { blockedB with params := { paramsB with policy := .holdLastGood } }
    (after (.substituteHeld .west) s).edge .west = { s.edge .west with rxNext := 1, substituted := true } ∧
    (after (.substituteHeld .west) s).hostOut = s.hostOut ++ [.error 0 .substituted 1] ∧
    (after (.substituteHeld .west) s).bstat = BarrierStatus.clear := by decide +kernel

/-- 95 §2.11, QUIT during a stall: QUIT at the head is taken, GET_OUTPUTS in front of it is not. -/
theorem test_controlStep_gate :
    (after .controlStep { blockedB with q := [hex 15 0x42474346010800070000001E6E9F4A] }).session = false ∧
    after .controlStep { blockedB with q := [hex 15 0x424743460106000400000080A02062] } =
      { blockedB with q := [hex 15 0x424743460106000400000080A02062] } := by decide +kernel
/-- 95 §2.9 rows 2, 3 and 8. -/
theorem test_controlStep_rejects :
    [hex 24 0x42474346020100010009006E7B5B49000000000100000000,
      hex 24 0x42474346020100010009009CCF9360000000000100000000,
      hex 18 0x4247434601040004000300B06689E3010000].map (fun f =>
        let t := after .controlStep { idle with q := [f] }
        (t.hostOut, t.protoDrops, t.q)) =
      [([.error 1 .badVersion 0], 0, []), ([], 1, []), ([.error 4 .malformedPayload 0], 0, [])] := by decide +kernel

/-- EVALUATE_VECTOR of P1, whose latency is 2 cycles, is the three commands of R179; without an input there is no SET_INPUTS. -/
theorem test_evaluateVector :
    evaluateVector 2 (fun _ => 1) chainIdle = [.setInputs 2 [⟨x, 1⟩], .step 3 4, .getOutputs 4 []] ∧
    evaluateVector 2 (fun _ => 1) idle = [.step 2 0, .getOutputs 3 []] := by decide +kernel
/-- A latency whose tick count passes the u32 field takes two STEPs, of whole cycles each (log 33). -/
theorem test_evaluateVector_long : evaluateVector 0 (fun _ => 1) { idle with latency := 2147483648 } =
    [.step 0 4294967294, .step 1 2, .getOutputs 2 []] := by decide +kernel

/-- COMMIT clears the outputs and the tick count (95 §3.5 @9). -/
theorem test_commit : (after (.commit tablesH) { ring with t := 3, cur := [2, 8, 0, 0] }).lut = tablesH ∧
    (after (.commit tablesH) { ring with t := 3, cur := [2, 8, 0, 0] }).cur = [0, 0, 0, 0] ∧
    (after (.commit tablesH) { ring with t := 3, cur := [2, 8, 0, 0] }).t = 0 := by decide +kernel
theorem test_commit_stops : fault? (exec (.commit []) idle) = some .tablesNotOfRegion := by decide +kernel

/-- 95 §2.12: the launch of P2. -/
theorem test_reset :
    (launched (tile 2 2 2 2 0 0 .stall) adderProgram).lut = [⟨0, 0x96, 0xE8, 0⟩, PerDir.all 0, ⟨0, 0x96, 0xE8, 0⟩, PerDir.all 0] ∧
    (launched (tile 2 2 2 2 0 0 .stall) adderProgram).ins = [(a, 0), (b, 0)] ∧
    (next? (exec (.reset Config.resetParams Config.resetProgram) State.reset)) = some State.reset := by decide +kernel

/-- The base Program of 95 §2.8 with other cells, inputs and outputs. -/
def checkedProgram (gw : Int) (cells : List CellRecord) (ins : List (VarName × Nat)) (outs : List (VarName × List RawTap)) :
    Program := ⟨gw, 2, 1, cells, ins, outs⟩
/-- Cells (0,0) and (1,0) of that Program with the given W pins. -/
def checkedCells (p q : RawSource) : List CellRecord := [eastward 0 0 p, eastward 1 0 q]
def ins1 : List (VarName × Nat) := [(x, 1)]
def outs1 : List (VarName × List RawTap) := [(y, [⟨1, 0, 1⟩])]
def base : List CellRecord := checkedCells (.input x 0) (.cell 0 0 1)

/-- 95 §2.8, but for its diagonal row, whose coordinate (1,1) R62 makes a neighbour of (1,0) (log 28); the diagonal here is
95 §1.8's. -/
theorem test_reset_refused :
    [checkedProgram 3 base ins1 outs1, checkedProgram 4 base ins1 outs1,
      checkedProgram 2 (base ++ [eastward 5 0 .null]) ins1 outs1,
      checkedProgram 2 (checkedCells (.cell 1 1 3) .null) ins1 outs1,
      checkedProgram 2 (checkedCells .null (.cell 1 0 1)) ins1 outs1,
      checkedProgram 2 (checkedCells (.input [0x71] 0) .null) ins1 outs1,
      checkedProgram 2 (checkedCells (.input x 1) .null) ins1 outs1,
      checkedProgram 2 base [(x, 0)] outs1,
      checkedProgram 2 (base ++ base) ins1 outs1,
      checkedProgram 2 (checkedCells (.const 2) .null) ins1 outs1,
      checkedProgram 2 [cell 0 0 [0, 70000, 0, 0] [.null, .null, .null, .null]] ins1 outs1,
      checkedProgram 2 base ins1 [(y, [⟨2, 0, 1⟩])],
      checkedProgram 2 [{ eastward 0 0 .null with legacyOp := true }] ins1 outs1,
      checkedProgram 2 base [(List.replicate 256 0x78, 1)] outs1].map
        (fun g => (refusal? (exec (.reset Config.resetParams g) State.reset))) =
      [ErrorCode.badDimension, .dimensionMismatch, .coordOutOfBounds, .nonAdjacentSource, .nonAdjacentSource, .undeclaredName,
        .bitIndexOutOfRange, .widthOutOfRange, .duplicateCell, .badSource, .badCellRecord, .outputNotInRegion,
        .legacyOpcodeCell, .badName].map (fun e => some (.launchRefused e)) := by decide +kernel

/-! ### A sound state that is not the reset state -/

/-- The invariant of a tile without an upload, as a check. -/
def soundState (s : State) : Bool :=
  let p := s.params
  p.valid && decide (s.lut.length = cellCount p ∧ s.src.length = cellCount p ∧ s.cur.length = cellCount p ∧
      s.nxt.length = cellCount p)
    && (regionCoords p).all (fun c => allDirs.all fun d => s.sourceFits c (s.srcAt c d))
    && s.inDecl.all (fun d => nameOk d.1 && widthOk d.2 && decide ((s.inValue d.1).toNat < 2 ^ d.2))
    && decide ((s.inDecl.map Prod.fst).Nodup ∧ s.ins.map Prod.fst = s.inDecl.map Prod.fst)
    && s.outDecl.all (fun d => nameOk d.1 && widthOk d.2.length && d.2.all fun tap => inRegion p tap.c)
    && allDirs.all (fun e => decide ((s.edge e).half0.length = laneCount p e ∧ (s.edge e).half1.length = laneCount p e ∧
      (s.edge e).tx.length ≤ 2 ∧ ((s.edge e).linked = true → hasNeighbour p e = true) ∧
      ((s.edge e).substituted = true → p.policy = .holdLastGood)))
    && decide (s.upload = none ∧ s.pending < 2 ^ 32 ∧
      (s.halted = true → s.session = false ∧ s.pending = 0 ∧ s.upload = none) ∧
      (s.bstat.blocked = true → 0 < s.pending ∧ s.barrierOk = false) ∧
      (s.bstat.blocked = false → s.bstat = BarrierStatus.clear))

theorem sound_inv {s : State} (h : soundState s = true) : s.Inv := by
  simp only [soundState, Bool.and_eq_true, List.all_eq_true, decide_eq_true_eq, mem_allDirs, true_implies] at h
  obtain ⟨⟨⟨⟨⟨⟨⟨hp, h1, h2, h3, h4⟩, hs⟩, hi⟩, hn, hin⟩, ho⟩, he⟩, hu, hpd, hh, hb, hub⟩ := h
  exact {
    params := hp, lut := h1, src := h2, cur := h3, nxt := h4
    sources := fun c d hc => hs c (mem_regionCoords.2 hc) d
    inDecl := fun d hd => (hi d hd).1
    inOnce := hn, inputs := hin
    inputBits := fun n k hk => (hi (n, k) (lookupName_mem hk)).2
    outDecl := fun d hd => ⟨(ho d hd).1.1, (ho d hd).1.2, (ho d hd).2⟩
    edges := fun e => ⟨(he e).1, (he e).2.1, (he e).2.2.1, (he e).2.2.2.1, (he e).2.2.2.2⟩
    upload := fun u h => by rw [hu] at h; cases h
    pending := hpd, halted := hh, blocked := hb, unblocked := hub }

theorem chain_inv : chain.Inv := sound_inv (by decide +kernel)
theorem tileA_inv : tileA.Inv := sound_inv (by decide +kernel)
theorem blockedB_inv : blockedB.Inv := sound_inv (by decide +kernel)

/-! ### Witnesses: concrete states and operands that meet the hypotheses of each statement, clause by clause -/

theorem idle_ready : idle.ready := ⟨rfl, rfl⟩
theorem idle_readyInSession : idle.readyInSession := ⟨idle_ready, rfl⟩
theorem chainIdle_readyInSession : chainIdle.readyInSession := ⟨⟨by decide +kernel, rfl⟩, rfl⟩

/-- HelloOpensSession: version 1, and the versions beside it. -/
theorem witness_HelloOpensSession : idle.ready ∧ (1 : Byte) = 1 ∧ (0 : Byte) ≠ 1 ∧ (2 : Byte) ≠ 1 :=
  ⟨idle_ready, by decide, by decide, by decide⟩

/-- CommandsNeedSession. -/
theorem witness_CommandsNeedSession : State.reset.ready ∧ State.reset.session = false ∧
    State.reset.params.features.getLsbD 0 = true := ⟨⟨rfl, rfl⟩, rfl, by decide⟩

/-- LoadChunkWritesItsBytes: a total one above the limit; a chunk one past the total; a chunk that ends at the total, and an
empty one there; with no upload, the same upload and another. -/
theorem witness_LoadChunkWritesItsBytes : idle.readyInSession ∧ (uploaded [1]).readyInSession ∧
    idle.params.maxUpload < (1048577 : BitVec 32).toNat ∧ (1048576 : BitVec 32).toNat ≤ idle.params.maxUpload ∧
    (1048576 : BitVec 32).toNat < (1048576 : BitVec 32).toNat + [(0 : Byte)].length ∧
    (1048575 : BitVec 32).toNat + [(0 : Byte)].length ≤ (1048576 : BitVec 32).toNat ∧
    (1048576 : BitVec 32).toNat + ([] : Bytes).length ≤ (1048576 : BitVec 32).toNat ∧
    (uploaded [1]).upload = some ⟨0, 1, [(0, 1)]⟩ :=
  ⟨idle_readyInSession, ⟨⟨rfl, rfl⟩, rfl⟩, by decide, by decide, by decide, by decide, by decide, by decide⟩

/-- ApplyCommitsOrRefuses: no upload; two bytes of three; a complete one, also of no byte, that fails; H, which decodes. -/
theorem witness_ApplyCommitsOrRefuses :
    idle.readyInSession ∧ idle.upload = none ∧
    (let u : Upload := ⟨0, 3, [(0, 1), (1, 2)]⟩; 2 < u.total.toNat ∧ Memory.read u.mem 2 = none) ∧
    (let u : Upload := ⟨0, 0, []⟩; (∀ k, k < u.total.toNat → Memory.read u.mem k ≠ none) ∧
      decodeUpload idle.params u.bytes = .fail .badHeaderSize) ∧
    (∀ k, k < (uploadOf bitsH).total.toNat → Memory.read (uploadOf bitsH).mem k ≠ none) ∧
    decodeUpload idle.params (uploadOf bitsH).bytes = .tables tablesH :=
  ⟨idle_readyInSession, by decide +kernel⟩

/-- The header checks of R250 that a string fails, in order. -/
def failedChecks (p : Params) (bs : Bytes) : List Bool :=
  let wd := memRead bs 8 2
  let ht := memRead bs 10 2
  [decide (bs.take 4 ≠ [0x42, 0x47, 0x42, 0x53]), decide (memRead bs 4 2 ≠ 1), decide (memRead bs 6 2 ≠ 24),
    decide (wd = 0 ∨ wd % 2 = 1 ∨ ht = 0 ∨ ht % 2 = 1), decide (wd ≠ p.tileW ∨ ht ≠ p.tileH), decide (2 < memRead bs 12 1),
    decide (memRead bs 14 4 ≠ 64 * wd * ht ∨ bs.length ≠ 24 + memRead bs 14 4 / 8),
    decide (memRead bs 18 4 ≠ (crc32 (bs.drop 24)).toNat)]

/-- BitstreamChecksInOrder: the headerless length and one off it; 23 and 24 bytes; a string for each first failing check; H, with
its first and its last payload byte altered. -/
theorem witness_BitstreamChecksInOrder :
    payloadH.length = 8 * Config.resetParams.tileW * Config.resetParams.tileH ∧
    (bitsH.take 33).length ≠ 8 * Config.resetParams.tileW * Config.resetParams.tileH ∧ 24 ≤ (bitsH.take 33).length ∧
    (bitsH.take 23).length < 24 ∧ 24 ≤ (bitsH.take 24).length ∧
    [bitsH.set 0 0, bitsH.set 4 2, bitsH.set 6 23, bitsH.set 8 3, bitsH.set 8 4, bitsH.set 12 3, bitsH.take 24,
      bitsH.set 24 0].map (fun bs => (failedChecks Config.resetParams bs).findIdx id) = [0, 1, 2, 3, 4, 5, 6, 7] ∧
    (∀ f ∈ failedChecks Config.resetParams bitsH, f = false) ∧ bitsH.length = 56 ∧ bitsH[24]? ≠ some 0 ∧ bitsH[55]? ≠ some 1 := by
  decide +kernel

/-- PayloadBitsLandInTheirTables: the last bit of the last cell of a 4×2 tile, in every order. -/
theorem witness_PayloadBitsLandInTheirTables : (0 ≤ 2 ∧ 1 ≤ 2 ∧ 2 ≤ 2) ∧ 7 < 4 * 2 ∧ 15 < 16 := by decide

/-- PackedTablesComeBack: every order, the last one snake. -/
theorem witness_PackedTablesComeBack : (uploaded (pack tablesH 2 2 2)).readyInSession ∧
    (uploaded (pack tablesH 2 2 2)).params.valid = true ∧ 2 ≤ 2 ∧
    tablesH.length = cellCount (uploaded (pack tablesH 2 2 2)).params ∧
    (uploaded (pack tablesH 2 2 2)).upload = some (uploadOf (pack tablesH 2 2 2)) ∧
    (uploadOf (pack tablesH 2 2 2)).complete = true ∧ (uploadOf (pack tablesH 2 2 2)).bytes = pack tablesH 2 2 2 :=
  ⟨⟨⟨rfl, rfl⟩, rfl⟩, by decide +kernel⟩

/-- CommitRestartsTheFabric. -/
theorem witness_CommitRestartsTheFabric : tablesH.length = cellCount ring.params := by decide +kernel

/-- BitstreamHeaderIsAppliedWhole: a bitstream that decodes, one that fails, a ready tile, and a halted one. -/
theorem witness_BitstreamHeaderIsAppliedWhole :
    State.reset.ready ∧ (after (.shutdown 1) idle).halted = true ∧
    decodeUpload State.reset.params (encodeBitstream ⟨2, 2, 0, 1, 256, 0xE9E5F89A, 0⟩ payloadH) = .tables tablesH ∧
    decodeUpload State.reset.params (encodeBitstream ⟨2, 2, 3, 1, 256, 0xE9E5F89A, 0⟩ payloadH) = .fail .badOrder ∧
    (encodeBitstream ⟨2, 2, 0, 1, 256, 0xE9E5F89A, 0⟩ payloadH).length < 2 ^ 32 :=
  ⟨⟨rfl, rfl⟩, by decide +kernel⟩

/-- SetInputsWritesMaskedValues: a name that is not declared, and a declared one twice. -/
theorem witness_SetInputsWritesMaskedValues : chainIdle.readyInSession ∧
    chainIdle.ins.map Prod.fst = chainIdle.inDecl.map Prod.fst ∧
    (∃ e ∈ [(⟨x, 1⟩ : TlvEntry), ⟨y, 1⟩], chainIdle.inWidth e.name = none) ∧
    (∀ e ∈ [(⟨x, 1⟩ : TlvEntry), ⟨x, 2⟩], chainIdle.inWidth e.name ≠ none) ∧ chainIdle.inWidth x = some 1 :=
  ⟨chainIdle_readyInSession, by decide +kernel⟩

/-- Tile A of P4 between STEPs, B's first frame accepted (95 §3.4). -/
def idleA : State := { tileA with pending := 0, edges := tileA.edges.set .east { tileA.edge .east with rxNext := 1 } }

theorem framesFor_of {s : State} {n : Nat} (h : ∀ e ∈ allDirs, (s.edge e).linked = true → s.t + n ≤ (s.edge e).rxNext + 1) :
    s.framesFor n := fun e => h e (mem_allDirs e)

/-- StepRunsItsTicks: any number of ticks with no linked edge; two, and no more, with one frame accepted on a linked edge. -/
theorem witness_StepRunsItsTicks : chainIdle.readyInSession ∧ (chainIdle.framesFor 0 ∧ chainIdle.framesFor 7) ∧
    idleA.readyInSession ∧ (idleA.framesFor 0 ∧ idleA.framesFor 2) ∧ (idleA.edge .east).linked = true :=
  ⟨chainIdle_readyInSession, ⟨framesFor_of (by decide +kernel), framesFor_of (by decide +kernel)⟩,
    ⟨⟨by decide +kernel, rfl⟩, by decide +kernel⟩, ⟨framesFor_of (by decide +kernel), framesFor_of (by decide +kernel)⟩,
    by decide +kernel⟩

/-- A tile whose one output has a name of six bytes: 4369 entries fill a payload exactly. -/
def wideNamed : State := { idle with outDecl := [(List.replicate 6 0x6E, [⟨⟨0, 0⟩, .east⟩])] }
def wideEntry : TlvEntry := ⟨List.replicate 6 0x6E, 0⟩

theorem wideNamed_sel (n : Nat) : (∀ m ∈ (List.replicate n wideEntry).map TlvEntry.name, wideNamed.outTaps m ≠ none) ∧
    (((List.replicate n wideEntry).map TlvEntry.name).map fun m => 9 + m.length).sum = 15 * n := by
  constructor
  · intro m hm
    obtain ⟨e, he, rfl⟩ := List.mem_map.1 hm
    rw [List.eq_of_mem_replicate he]
    decide
  · rw [List.map_map, List.map_replicate, List.sum_replicate]
    simp [wideEntry, Nat.mul_comm]

/-- GetOutputsReadsTheTaps: a chosen and an empty selection, an undeclared name, a reply of 65535 bytes and one of 65550. -/
theorem witness_GetOutputsReadsTheTaps : wideNamed.readyInSession ∧ [wideEntry] ≠ [] ∧
    (∃ n ∈ [y], wideNamed.outTaps n = none) ∧
    (let names := (List.replicate 4369 wideEntry).map TlvEntry.name
     (∀ n ∈ names, wideNamed.outTaps n ≠ none) ∧ (names.map fun n => 9 + n.length).sum ≤ 65535) ∧
    (let names := (List.replicate 4370 wideEntry).map TlvEntry.name
     (∀ n ∈ names, wideNamed.outTaps n ≠ none) ∧ 65535 < (names.map fun n => 9 + n.length).sum) ∧
    (∃ taps, wideNamed.outTaps wideEntry.name = some taps ∧ taps.length ≤ 64) := by
  refine ⟨⟨⟨rfl, rfl⟩, rfl⟩, by decide, by decide, ?_, ?_, ⟨_, rfl, by decide⟩⟩
  · exact ⟨(wideNamed_sel 4369).1, by rw [(wideNamed_sel 4369).2]⟩
  · exact ⟨(wideNamed_sel 4370).1, by rw [(wideNamed_sel 4370).2]; decide⟩

/-- QuitAndShutdownEndTheSession: while a STEP stalls. -/
theorem witness_QuitAndShutdownEndTheSession : blockedB.halted = false ∧ blockedB.session = true ∧ blockedB.pending = 3 := by
  decide +kernel

/-- HaltedTileOnlyQueues. -/
theorem witness_HaltedTileOnlyQueues : (after (.shutdown 1) idle).halted = true ∧ (∀ p g, Event.tick ≠ .launch p g) ∧
    (∀ f, Event.tick ≠ .deliver f) ∧ ∀ e n q, Event.tick ≠ .resend e n q :=
  ⟨by decide +kernel, nofun, nofun, nofun⟩

/-- LinkStartsAnEdge: edge 4; N, which has no neighbour; E after a tick; E linked; E. -/
theorem witness_LinkStartsAnEdge :
    let s : State := { launched paramsA programA with session := true }
    let linked : State := { tileA with pending := 0 }
    s.readyInSession ∧ linked.readyInSession ∧ s.params.features.getLsbD 0 = true ∧ 3 < (4 : Byte).toNat ∧
    (3 : Byte).toNat = Dir.west.code ∧ hasNeighbour s.params .west = false ∧ (1 : Byte).toNat = Dir.east.code ∧
    hasNeighbour s.params .east = true ∧ s.t = 0 ∧ (s.edge .east).linked = false ∧ State.t { s with t := 1 } ≠ 0 ∧
    linked.t = 0 ∧ (linked.edge .east).linked = true :=
  ⟨⟨⟨by decide +kernel, by decide +kernel⟩, rfl⟩, ⟨⟨by decide +kernel, rfl⟩, by decide +kernel⟩, by decide +kernel⟩

/-- UnlinkFreezesAnEdge: edge 4; an edge that is not linked; one that is. -/
theorem witness_UnlinkFreezesAnEdge :
    let s : State := { tileA with pending := 0 }
    s.readyInSession ∧ s.params.features.getLsbD 0 = true ∧ 3 < (4 : Byte).toNat ∧ (0 : Byte).toNat = Dir.north.code ∧
    (s.edge .north).linked = false ∧ (1 : Byte).toNat = Dir.east.code ∧ (s.edge .east).linked = true :=
  ⟨⟨⟨by decide +kernel, rfl⟩, by decide +kernel⟩, by decide +kernel⟩

/-- OtherTypesAreAnswered: a tile with and one without the link feature; the type bytes at the ends of each range. -/
theorem witness_OtherTypesAreAnswered :
    idle.ready ∧ State.ready { idle with params := { Config.resetParams with features := 0 } } ∧
    (0 : BitVec 32).getLsbD 0 = false ∧
    (∀ t ∈ [(1 : Byte), 6, 8, 0x0B], 1 ≤ t.toNat ∧ t.toNat ≤ 6 ∨ 8 ≤ t.toNat ∧ t.toNat ≤ 0x0B) ∧
    ∀ t ∈ [(0 : Byte), 0x0D, 0x7E, 0x80, 0xFF], t.toNat = 0 ∨ 0x0D ≤ t.toNat ∧ t.toNat ≤ 0x7E ∨ 0x80 ≤ t.toNat :=
  ⟨idle_ready, ⟨rfl, rfl⟩, by decide +kernel⟩

/-- ResolveEachForm: bit 0 of x; the corner cell of the region; the last lane of A's E edge. -/
theorem witness_ResolveEachForm : chain.inWidth x = some 1 ∧ 0 < 1 ∧ inRegion chain.params ⟨3, 1⟩ = true ∧
    tileA.params.valid = true ∧ hasNeighbour tileA.params .east = true ∧ 1 < laneCount tileA.params .east := by decide +kernel

/-- IndexWeighsThePins, EvalCellWritesItsNextBits, ForwardingTablesForward: the last cell, another one, a forwarding one. -/
theorem witness_EvalCell : inRegion chain.params ⟨3, 1⟩ = true ∧ chain.nxt.length = cellCount chain.params ∧
    inRegion chain.params ⟨2, 0⟩ = true ∧ (⟨2, 0⟩ : Coord) ≠ ⟨3, 1⟩ ∧ chain.lutAt ⟨2, 0⟩ .east = fwd .west := by decide +kernel

/-- AbsentCellsStayZero. -/
theorem witness_AbsentCellsStayZero :
    chainParams.valid = true ∧ chainProgram.keysDistinct = true ∧ admissionError chainParams chainProgram = none ∧
    inRegion chainParams ⟨3, 0⟩ = true ∧ (∀ r ∈ chainProgram.cells, r.coord ≠ ⟨3, 0⟩) ∧ inRegion chain.params ⟨3, 0⟩ = true ∧
    (∀ d, chain.lutAt ⟨3, 0⟩ d = 0) ∧ chain.curAt ⟨3, 0⟩ = 0 := by
  refine ⟨?_, ?_, ?_, ?_, ?_, ?_, Dir.forall_iff.2 ?_, ?_⟩ <;> decide +kernel

/-- TickUpdatesOneParity: a tile at t = 1 whose linked edge has received exactly tick 0's frame; a cell of each parity. -/
theorem witness_TickUpdatesOneParity :
    let s := after (.seamReceive .west frameA0) blockedB
    s.halted = false ∧ 0 < s.pending ∧ (∀ e, (s.edge e).linked = true → s.t ≤ (s.edge e).rxNext) ∧ s.t = (s.edge .west).rxNext ∧
    inRegion s.params ⟨2, 1⟩ = true ∧ (⟨2, 1⟩ : Coord).parity = s.t % 2 ∧ inRegion s.params ⟨2, 0⟩ = true ∧
    (⟨2, 0⟩ : Coord).parity ≠ s.t % 2 := by
  refine ⟨?_, ?_, Dir.forall_iff.2 ?_, ?_, ?_, ?_, ?_, ?_⟩ <;> decide +kernel

/-- DisabledOperationsDoNothing: each reason of each operation. -/
theorem witness_DisabledOperationsDoNothing :
    (after (.shutdown 1) idle).halted = true ∧ idle.pending = 0 ∧
    ((blockedB.edge .west).linked = true ∧ (blockedB.edge .west).rxNext < blockedB.t) ∧
    (∀ e, (tileB.edge e).linked = true → tileB.t ≤ (tileB.edge e).rxNext) ∧
    (blockedB.reported = some blockedB.t ∧ blockedB.bstat.blocked = true) ∧ blockedB.params.policy = .stall ∧ (blockedB.edge .north).linked = false ∧ tileB.t ≤ (tileB.edge .west).rxNext ∧
    blockedB.t % 2 = 1 := by
  refine ⟨?_, ?_, ?_, Dir.forall_iff.2 ?_, ?_, ?_, ?_, ?_, ?_⟩ <;> decide +kernel

theorem chain_runsFree : chain.runsFree 9 := ⟨by decide +kernel, Nat.le_refl _, Dir.forall_iff.2 (by decide +kernel)⟩
theorem ring_runsFree : ring.runsFree 4 := ⟨by decide +kernel, Nat.le_refl _, Dir.forall_iff.2 (by decide +kernel)⟩

/-- CycleIsTickAThenTickB: tile A of P4 with B's first frame accepted, which runs both ticks; tile B at t = 0, whose second tick
waits for a frame; the ring with its last tick; cells of both parities. -/
theorem witness_CycleIsTickAThenTickB :
    (∀ s ∈ [{ idleA with pending := 2 }, tileB, { ring with pending := 1 }],
      s.t % 2 = 0 ∧ s.halted = false ∧ 0 < s.pending ∧ ∀ e ∈ allDirs, (s.edge e).linked = true → s.t + 1 ≤ (s.edge e).rxNext + 1) ∧
    idleA.framesFor 2 ∧ ¬tileB.framesFor 2 ∧ inRegion idleA.params ⟨1, 0⟩ = true ∧ (⟨1, 0⟩ : Coord).parity = 1 ∧
    (⟨0, 0⟩ : Coord).parity = 0 :=
  ⟨by decide +kernel, framesFor_of (by decide +kernel),
    fun h => absurd (h .west) (by decide +kernel), by decide +kernel⟩

/-- VectorEvaluationRunsItsCycles: the chain of P1, whose one input is x. -/
theorem witness_VectorEvaluationRunsItsCycles : chainIdle.Inv ∧ chainIdle.readyInSession ∧
    (∀ e, (chainIdle.edge e).linked = false) ∧ chainIdle.inWidth x = some 1 ∧ chainIdle.latency = 2 :=
  ⟨sound_inv (by decide +kernel), chainIdle_readyInSession, Dir.forall_iff.2 (by decide +kernel), by decide +kernel⟩

/-- The hypotheses of RouteChainTiming for `l` cells of row 0 from column `k₀` on, in state `s`, x carrying 1. -/
structure RouteChain (s : State) (l k₀ : Nat) : Prop where
  some : 1 ≤ l
  cells : ∀ k, k < l → inRegion s.params ⟨k₀ + k, 0⟩ = true ∧ s.lutAt ⟨k₀ + k, 0⟩ .east = fwd .west
  joined : ∀ k, k + 1 < l → (⟨k₀ + (k + 1 : Nat), 0⟩ : Coord).adjacent ⟨k₀ + k, 0⟩ = true ∧
    s.srcAt ⟨k₀ + (k + 1 : Nat), 0⟩ .west = .cell ⟨k₀ + k, 0⟩ .east
  first : s.srcAt ⟨k₀ + (0 : Nat), 0⟩ .west = .input x 0
  driven : (s.inValue x).getLsbD 0 = true
  steady : ∀ k, k < l → s.outAt ⟨k₀ + k, 0⟩ .east = false

/-- The same, as a check. -/
def routeChain (s : State) (l k₀ : Nat) : Bool :=
  decide (1 ≤ l ∧ s.srcAt ⟨k₀ + (0 : Nat), 0⟩ .west = .input x 0) && (s.inValue x).getLsbD 0
    && (List.range l).all (fun k => inRegion s.params ⟨k₀ + k, 0⟩ && decide (s.lutAt ⟨k₀ + k, 0⟩ .east = fwd .west)
      && !s.outAt ⟨k₀ + k, 0⟩ .east)
    && (List.range (l - 1)).all fun k => (⟨k₀ + (k + 1 : Nat), 0⟩ : Coord).adjacent ⟨k₀ + k, 0⟩
      && decide (s.srcAt ⟨k₀ + (k + 1 : Nat), 0⟩ .west = .cell ⟨k₀ + k, 0⟩ .east)

theorem routeChain_of {s : State} {l k₀ : Nat} (h : routeChain s l k₀ = true) : RouteChain s l k₀ := by
  simp only [routeChain, Bool.and_eq_true, decide_eq_true_eq, List.all_eq_true, List.mem_range, Bool.not_eq_true'] at h
  exact ⟨h.1.1.1.1, fun k hk => (h.1.2 k hk).1, fun k hk => h.2 k (by omega), h.1.1.1.2, h.1.1.2, fun k hk => (h.1.2 k hk).2⟩

/-- A chain that starts at the odd cell (1,0). -/
def oddChain : State :=
  { launched chainParams { chainProgram with cells := [eastward 1 0 (.input x 0), eastward 2 0 (.cell 1 0 1)] } with
    session := true, ins := [(x, 1)], pending := 9 }

/-- RouteChainTiming: chains of three cells and of one cell from an even cell, and of two from an odd cell, at t = 0; and one at an
odd t. -/
theorem witness_RouteChainTiming :
    (∀ v ∈ [(chain, 3, 0), (chain, 1, 0), (oddChain, 2, 1), ({ chain with t := 1 }, 3, 0)], RouteChain v.1 v.2.1 v.2.2) ∧
    true ≠ false ∧ chain.runsFree 9 ∧ chain.t % 2 = 0 ∧ oddChain.t % 2 = 0 ∧ (⟨0, 0⟩ : Coord).parity = 0 ∧
    (⟨1, 0⟩ : Coord).parity = 1 :=
  ⟨fun v hv => routeChain_of ((by decide +kernel : ∀ v ∈ [(chain, 3, 0), (chain, 1, 0), (oddChain, 2, 1),
      ({ chain with t := 1 }, 3, 0)], routeChain v.1 v.2.1 v.2.2 = true) v hv),
    by decide, chain_runsFree, by decide +kernel⟩

/-- SignalsMoveOneStepPerTick: another output of (0,0), seen from (3,1) within three ticks; another value of x, which only (0,0)
reads. -/
theorem witness_SignalsMoveOneStepPerTick :
    chain.Inv ∧ chain.runsFree 3 ∧
    (∀ c, inRegion chain.params c = true → c ≠ ⟨0, 0⟩ → State.curAt { chain with cur := [2, 0, 0, 0, 0, 0, 0, 0] } c = chain.curAt c) ∧
    inRegion chain.params ⟨3, 1⟩ = true ∧ 3 < (⟨0, 0⟩ : Coord).dist ⟨3, 1⟩ ∧
    chain.srcAt ⟨0, 0⟩ .west = .input x 0 ∧ (chain.inValue x).getLsbD 0 ≠ (State.inValue { chain with ins := [(x, 0)] } x).getLsbD 0 ∧
    3 ≤ (⟨0, 0⟩ : Coord).dist ⟨3, 0⟩ := by
  refine ⟨chain_inv, ⟨chain_runsFree.1, by decide, chain_runsFree.2.2⟩, fun c hc => ?_, by decide +kernel⟩
  revert c
  exact fun c hc => (by decide +kernel : ∀ c ∈ regionCoords chain.params, c ≠ ⟨0, 0⟩ →
    State.curAt { chain with cur := [2, 0, 0, 0, 0, 0, 0, 0] } c = chain.curAt c) c (mem_regionCoords.2 hc)

/-- InverterRingPeriodFour. -/
theorem witness_InverterRingPeriodFour : ring.runsFree 4 ∧ inRegion ring.params ⟨0, 0⟩ = true ∧ inRegion ring.params ⟨1, 0⟩ = true ∧
    (⟨0, 0⟩ : Coord).adjacent ⟨1, 0⟩ = true ∧ ring.lutAt ⟨0, 0⟩ .east = tableOf (fun idx => !idx.getLsbD Dir.east.code) ∧
    ring.srcAt ⟨0, 0⟩ .east = .cell ⟨1, 0⟩ .west ∧ ring.lutAt ⟨1, 0⟩ .west = fwd .west ∧
    ring.srcAt ⟨1, 0⟩ .west = .cell ⟨0, 0⟩ .east ∧ (⟨0, 0⟩ : Coord).parity = ring.t % 2 :=
  ⟨ring_runsFree, by decide +kernel⟩

/-- LanesAndTheirParities: the last lane of an edge, both parities, the facing tiles of P4. -/
theorem witness_LanesAndTheirParities : paramsA.valid = true ∧ 1 < laneCount paramsA .east ∧ (0 ≤ 1 ∧ 1 ≤ 1) ∧
    paramsB.valid = true ∧ facing paramsA .east paramsB = true := by decide +kernel

/-- SeamReferencesHaveOneLane: (1,1) and its neighbour (2,1) of tile A. -/
theorem witness_SeamReferencesHaveOneLane : paramsA.valid = true ∧ inRegion paramsA ⟨1, 1⟩ = true ∧
    inRegion paramsA ⟨2, 1⟩ = false ∧ inGrid paramsA ⟨2, 1⟩ = true ∧ (⟨1, 1⟩ : Coord).adjacent ⟨2, 1⟩ = true := by decide +kernel

/-- EmittedFrameCarriesItsLanes. -/
theorem witness_EmittedFrameCarriesItsLanes : tileA.params.valid = true ∧ tileA.halted = false ∧
    (tileA.edge .east).linked = true := by decide +kernel

/-- ResendRepeatsARetainedFrame: a retained frame, a frame that is not, a halted tile, an edge that is not linked. -/
theorem witness_ResendRepeatsARetainedFrame :
    let s := after .tick tileA
    s.halted = false ∧ (∃ r ∈ (s.edge .east).tx, memRead r.2 8 4 = (0 : BitVec 32).toNat ∧ memRead r.2 6 1 = (0 : Byte).toNat) ∧
    (∀ r ∈ (s.edge .east).tx, ¬(memRead r.2 8 4 = (0 : BitVec 32).toNat ∧ memRead r.2 6 1 = (1 : Byte).toNat)) ∧
    (s.edge .west).linked = false ∧ (after (.shutdown 1) idle).halted = true := by decide +kernel

/-- A tile with two linked edges, blocked on both: the middle one of a 6×2 grid. -/
def middle : State :=
  let s := launched (tile 6 2 2 2 2 0 .stall) { programB with cells := [] }
  { s with
    session := true, t := 1, pending := 3, bstat := ⟨true, 0b1010, 0, .missing⟩, reported := some 1
    edges := (s.edges.set .west { s.edge .west with linked := true }).set .east { s.edge .east with linked := true } }

/-- ExpectedFrameIsAccepted: A0 for B, whose barrier then holds; for the middle tile, which then waits for its other edge; for a
tile that is not blocked. -/
theorem witness_ExpectedFrameIsAccepted :
    (∀ s ∈ [blockedB, middle, tileB],
      s.halted = false ∧ (s.edge .west).linked = true ∧ (s.edge .west).half0.length = laneCount s.params .west ∧
      (s.edge .west).half1.length = laneCount s.params .west ∧ (0 : Byte).toNat = (s.edge .west).rxNext % 2 ∧
      (0 : BitVec 32) = BitVec.ofNat 32 ((s.edge .west).rxNext / 2) ∧
      ([⟨1, 0⟩] : List Lane).map (fun l => l.lane.toNat) = [1] ∧ recvLanes s.params .west 0 = [1]) ∧
    decodeSeam frameA0 = some ⟨1, 0, 0, [⟨1, 0⟩]⟩ ∧ (1 : Byte).toNat = Dir.west.opp.code ∧
    blockedB.bstat.blocked = true ∧ middle.bstat.blocked = true ∧ tileB.bstat.blocked = false ∧
    (let t := after (.seamReceive .west frameA0) blockedB
     ∀ e' ∈ allDirs, (t.edge e').linked = true → blockedB.t ≤ (t.edge e').rxNext) ∧
    (let t := after (.seamReceive .west frameA0) middle
     (t.edge .east).linked = true ∧ (t.edge .east).rxNext < middle.t) := by decide +kernel

/-- The conditions of R211 and of R213 on delivered bytes, and whether the epoch and the phase are the expected ones, in the words
of the statement. -/
def frameConditions (s : State) (e : Dir) (bytes : Bytes) : Bool × Bool × Bool × Bool :=
  let n := memRead bytes 12 2
  let c := (s.edge e).rxNext
  (decide (bytes.length < 18 ∨ bytes.take 4 ≠ [0x42, 0x47, 0x53, 0x46] ∨ bytes.length ≠ 18 + 3 * n ∨
      memRead bytes (14 + 3 * n) 4 ≠ (crc32 ((bytes.drop 4).take (10 + 3 * n))).toNat ∨ memRead bytes 4 1 ≠ 1 ∨
      memRead bytes 5 1 ≠ e.opp.code ∨ 1 < memRead bytes 6 1 ∨
      (List.range n).map (fun i => memRead bytes (14 + 3 * i) 2) ≠ recvLanes s.params e (memRead bytes 6 1)),
    decide (0 < c ∧ memRead bytes 8 4 = (c - 1) / 2 % 2 ^ 32 ∧ memRead bytes 6 1 = (c - 1) % 2),
    decide (memRead bytes 8 4 = c / 2 % 2 ^ 32), decide (memRead bytes 6 1 = c % 2))

/-- Tile B with four frames accepted (95 §2.11, the synthetic frames). -/
def laterB : State := { tileB with t := 4, edges := tileB.edges.set .west { tileB.edge .west with rxNext := 4 } }

/-- RejectedFrameIsCountedAndReported: a halted tile; an edge that is not linked; in tile B, which waits for A1 (epoch 0, phase 1),
17 bytes, a bad CRC and a wrong edge; a repeated frame; a wrong epoch; and later a wrong phase. -/
theorem witness_RejectedFrameIsCountedAndReported :
    (after (.shutdown 1) idle).halted = true ∧ (waitingB.edge .north).linked = false ∧ waitingB.halted = false ∧
    (waitingB.edge .west).linked = true ∧ laterB.halted = false ∧ (laterB.edge .west).linked = true ∧
    (∀ f ∈ [frameA1.take 17, frameA1bad, frameB0], (frameConditions waitingB .west f).1 = true) ∧
    frameConditions waitingB .west frameA0 = (false, true, true, false) ∧
    frameConditions waitingB .west frameA2 = (false, false, false, false) ∧
    frameConditions laterB .west frameWrongPhase = (false, false, true, false) := by decide +kernel

/-- SeamFrameIsReceivedFromItsBytes: the frame A1 in tile B. -/
theorem witness_SeamFrameIsReceivedFromItsBytes :
    let f : SeamFrame := ⟨1, 1, 0, [⟨0, 2⟩]⟩
    f.lanes.length < 65536 ∧ waitingB.halted = false ∧ (waitingB.edge .west).linked = true ∧
    (waitingB.edge .west).half0.length = laneCount waitingB.params .west ∧
    (waitingB.edge .west).half1.length = laneCount waitingB.params .west ∧ f.edge.toNat = Dir.west.opp.code ∧
    f.phase.toNat = (waitingB.edge .west).rxNext % 2 ∧ f.epoch = BitVec.ofNat 32 ((waitingB.edge .west).rxNext / 2) ∧
    f.lanes.map (fun l => l.lane.toNat) = recvLanes waitingB.params .west f.phase.toNat := by decide +kernel

/-- Tile B stalled again at the tick it had reported before a QUIT, its status clear. -/
def stalledAgain : State := { blockedB with bstat := BarrierStatus.clear }

/-- StallReportsOncePerTick: a tick not yet reported, and one reported before a QUIT. -/
theorem witness_StallReportsOncePerTick :
    (∀ s ∈ [after .tick tileB, stalledAgain], s.halted = false ∧ 0 < s.pending ∧
      ((s.edge .west).linked = true ∧ (s.edge .west).rxNext < s.t) ∧ s.bstat.blocked = false) ∧
    (after .tick tileB).reported ≠ some (after .tick tileB).t ∧ stalledAgain.reported = some stalledAgain.t := by decide +kernel

/-- StallShowsTheBlockedTick: a blocked tick whose status shows it, one whose status does not, and a tick that is not blocked. -/
theorem witness_StallShowsTheBlockedTick : blockedB.Inv ∧ stalledAgain.Inv ∧ tileA.Inv ∧ stalledAgain.barrierOk = false ∧
    tileA.barrierOk = true :=
  ⟨blockedB_inv, sound_inv (by decide +kernel), tileA_inv, by decide +kernel⟩

/-- SeamReadReadsTheHalf: the last lane of A's E edge. -/
theorem witness_SeamReadReadsTheHalf : tileA.params.valid = true ∧ hasNeighbour tileA.params .east = true ∧
    1 < laneCount tileA.params .east := by decide +kernel

/-- SubstitutionIsMarkedAndReported: on B's one missing edge, and on one of the middle tile's two. -/
theorem witness_SubstitutionIsMarkedAndReported :
    (∀ s ∈ [{ blockedB with params := { paramsB with policy := .holdLastGood } },
        { middle with params := { middle.params with policy := .holdLastGood } }],
      s.params.policy = .holdLastGood ∧ s.halted = false ∧ 0 < s.pending ∧ (s.edge .west).linked = true ∧
      (s.edge .west).rxNext < s.t) ∧
    (let es := blockedB.edges.set .west { blockedB.edge .west with rxNext := (blockedB.edge .west).rxNext + 1, substituted := true }
     ∀ e' ∈ allDirs, (es.get e').linked = true → blockedB.t ≤ (es.get e').rxNext) ∧
    (let es := middle.edges.set .west { middle.edge .west with rxNext := (middle.edge .west).rxNext + 1, substituted := true }
     (es.get .east).linked = true ∧ (es.get .east).rxNext < middle.t) := by decide +kernel

/-- Tile A and the unsplit grid of P4 after tick 1, tile A having received B0 and B1 (95 §3.4). -/
def midA : State :=
  { tileA with
    t := 2, pending := 2, cur := [2, 2, 0, 0]
    edges := tileA.edges.set .east { tileA.edge .east with half1 := [0, 8], rxNext := 2 } }
def midGrid : State :=
  { launched chainParams programGrid with ins := [(x, 1), (z, 1)], t := 2, pending := 2, cur := [2, 2, 0, 0, 0, 0, 8, 8] }

/-- TileTickMatchesTheGridTick. -/
theorem witness_TileTickMatchesTheGridTick :
    midA.Inv ∧ midGrid.Inv ∧ midA.t = midGrid.t ∧ midA.ins = midGrid.ins ∧ midA.tickEnabled = true ∧ midGrid.tickEnabled = true ∧
    midA.params.gridW = midGrid.params.gridW ∧ midA.params.gridH = midGrid.params.gridH ∧
    (∀ c, inGrid midGrid.params c = true → inRegion midGrid.params c = true) ∧
    (∀ c, inRegion midA.params c = true → midA.curAt c = midGrid.curAt c ∧
      ∀ d, midA.lutAt c d = midGrid.lutAt c d ∧ midA.srcAt c d = midGrid.srcAt c d) ∧
    (∀ e k out, hasNeighbour midA.params e = true → k < laneCount midA.params e → (ncell midA.params e k).parity ≠ midA.t % 2 →
      ((midA.edge e).half (ncell midA.params e k).parity k).getLsbD out.code = midGrid.outAt (ncell midA.params e k) out) := by
  have same : midA.t = midGrid.t ∧ midA.ins = midGrid.ins ∧ midA.tickEnabled = true ∧ midGrid.tickEnabled = true ∧
      midA.params.gridW = midGrid.params.gridW ∧ midA.params.gridH = midGrid.params.gridH := by decide +kernel
  refine ⟨sound_inv (by decide +kernel), sound_inv (by decide +kernel), same.1, same.2.1, same.2.2.1, same.2.2.2.1,
    same.2.2.2.2.1, same.2.2.2.2.2, ?_, ?_, ?_⟩
  · have hp : midGrid.params = chainParams := by decide +kernel
    intro c
    rw [hp]
    simp [inGrid_iff, inRegion_iff, chainParams, tile]
  · exact fun c hc => (by decide +kernel : ∀ c ∈ regionCoords midA.params, midA.curAt c = midGrid.curAt c ∧
      ∀ d ∈ allDirs, midA.lutAt c d = midGrid.lutAt c d ∧ midA.srcAt c d = midGrid.srcAt c d) c (mem_regionCoords.2 hc)
        |>.imp id fun h d => h d (mem_allDirs d)
  · exact fun e k out h1 h2 => (by decide +kernel : ∀ e ∈ allDirs, ∀ out ∈ allDirs, hasNeighbour midA.params e = true →
      ∀ k, k < laneCount midA.params e → (ncell midA.params e k).parity ≠ midA.t % 2 →
      ((midA.edge e).half (ncell midA.params e k).parity k).getLsbD out.code = midGrid.outAt (ncell midA.params e k) out)
        e (mem_allDirs e) out (mem_allDirs out) h1 k h2

theorem freshEdge_of {s : State} {e : Dir} (h : s.params.valid = true ∧ s.t = 0 ∧ (s.edge e).linked = true ∧ (s.edge e).rxNext = 0 ∧
    (s.edge e).tx = [] ∧ s.seamOut = []) : s.FreshEdge e := ⟨h.1, h.2.1, h.2.2.1, h.2.2.2.1, h.2.2.2.2.1, h.2.2.2.2.2⟩

theorem freshA : tileA.FreshEdge .east := freshEdge_of (by decide +kernel)
theorem freshB : tileB.FreshEdge .west := freshEdge_of (by decide +kernel)

/-- LinkedTilesStayInStep: the tiles of P4, started, and one tick of A later. -/
theorem witness_LinkedTilesStayInStep : SeamPair .east (after .tick tileA) tileB ∧ (after .tick tileA).t < 2 ^ 33 ∧ tileB.t < 2 ^ 33 :=
  ⟨.left tileA _ _ .tick (.start tileA tileB freshA freshB) rfl trivial, by decide +kernel⟩

/-- ControlStepTakesTheHeadFrame: an unframed string; a frame of version 2; a GET_OUTPUTS with and without ticks to run; a QUIT with
ticks to run. -/
theorem witness_ControlStepTakesTheHeadFrame :
    let quit := hex 15 0x42474346010800070000001E6E9F4A
    let get := hex 15 0x424743460106000400000080A02062
    let v2 := hex 24 0x42474346020100010009006E7B5B49000000000100000000
    idle.halted = false ∧ State.q { idle with q := [quit] } = quit :: [] ∧ framed [] = false ∧ framed quit = true ∧
    framed get = true ∧ framed v2 = true ∧ idle.pending = 0 ∧ blockedB.pending ≠ 0 ∧ frameVersion quit = 1 ∧ frameType quit = 8 ∧
    frameVersion v2 ≠ 1 ∧ ¬(frameVersion get = 1 ∧ (frameType get = 8 ∨ frameType get = 9)) ∧
    decodeControl get = .instr (.getOutputs 4 []) := by decide +kernel

/-- A STEP of length 3 (95 §2.9 row 8), a LINK without a payload and a QUIT with one byte, with their CRCs. -/
def shortStep : Bytes := hex 18 0x4247434601040004000300B06689E3010000
def shortLink : Bytes := hex 15 0x42474346010A000300000042583588
def longQuit : Bytes := hex 16 0x4247434601080007000100B727852900

/-- No payload of a rejected frame is an instruction. -/
theorem not_instr {r : Decoded} {why : DecodeError} (h : r = .rejected why) : ¬∃ i, r = .instr i := by
  rintro ⟨i, hi⟩
  rw [h] at hi
  cases hi

/-- MalformedPayloadsAreAnswered: the three frames on a tile between STEPs, with and without a session, and one without the link
feature; the QUIT on a tile that stalls in a STEP. -/
theorem witness_MalformedPayloadsAreAnswered :
    (∀ f ∈ [shortStep, shortLink, longQuit], framed f = true ∧ frameVersion f = 1) ∧
    (¬∃ i, decodePayload (frameSeq shortStep) (frameType shortStep) (framePayload shortStep) = .instr i) ∧
    (¬∃ i, decodePayload (frameSeq shortLink) (frameType shortLink) (framePayload shortLink) = .instr i) ∧
    (¬∃ i, decodePayload (frameSeq longQuit) (frameType longQuit) (framePayload longQuit) = .instr i) ∧
    (idle.halted = false ∧ idle.pending = 0 ∧ idle.session = true ∧ State.reset.pending = 0 ∧ State.reset.session = false) ∧
    (State.q { idle with q := [shortLink] } = shortLink :: [] ∧ frameType shortLink = 0x0A ∧ (0 : BitVec 32).getLsbD 0 = false) ∧
    (blockedB.halted = false ∧ 0 < blockedB.pending ∧ frameType longQuit = 0x08) :=
  ⟨by decide +kernel, not_instr (why := .malformedPayload 4 4) (by decide +kernel),
    not_instr (why := .malformedPayload 3 10) (by decide +kernel), not_instr (why := .malformedPayload 7 8) (by decide +kernel),
    by decide +kernel⟩

/-- The three answers to a malformed payload: 0x0101 without the link feature, 0x0104 without a session, 0x0206 else, also for a QUIT
in a stalled STEP (43_host_commands.md R241, R243, R244). -/
theorem test_malformed_answers :
    (after .controlStep { idle with params := { Config.resetParams with features := 0 }, q := [shortLink] }).hostOut =
      [.error 3 .unknownType 0] ∧
    (after .controlStep { State.reset with q := [shortStep] }).hostOut = [.error 4 .noSession 0] ∧
    (after .controlStep { blockedB with hostOut := [], q := [longQuit] }).hostOut =
      [.error 7 .malformedPayload blockedB.freeCount] := by decide +kernel

/-- StepRunsTheDecodedInstruction: a control frame, a QUIT during a STEP, a seam frame. -/
theorem witness_StepRunsTheDecodedInstruction :
    let quit := hex 15 0x42474346010800070000001E6E9F4A
    State.agenda { blockedB with agenda := [.control], q := [quit] } = .control :: [] ∧ blockedB.halted = false ∧
    takenDuringStep quit = true ∧ decode .control quit = .instr (.quit 7) ∧ idle.pending = 0 ∧
    State.agenda { waitingB with agenda := [.seam .west frameA1] } = .seam .west frameA1 :: [] ∧
    decode (.seam .west) frameA1 = .instr (.seamFrame .west ⟨1, 1, 0, [⟨0, 2⟩]⟩) ∧ State.reset.halted = false ∧
    State.reset.pending = 0 := by decide +kernel

/-- IdleTileIsUnchanged: nothing to do; blocked with its report sent, with an empty queue and with a GET_OUTPUTS queued. -/
theorem witness_IdleTileIsUnchanged :
    let get := hex 15 0x424743460106000400000080A02062
    idle.agenda = [] ∧ idle.pending = 0 ∧ idle.q = [] ∧ blockedB.agenda = [] ∧ 0 < blockedB.pending ∧
    ((blockedB.edge .west).linked = true ∧ (blockedB.edge .west).rxNext < blockedB.t) ∧ blockedB.reported = some blockedB.t ∧
    blockedB.bstat.blocked = true ∧ blockedB.q = [] ∧ framed get = true ∧ (frameVersion get ≠ 1 ∨ frameType get ≠ 8 ∧ frameType get ≠ 9) := by decide +kernel

theorem exec_after {i : Instr} {s t : State} (h : exec i s = .next t) : exec i s = .next (after i s) := by
  rw [after, h]
  rfl

/-- The same where it is only known that the instruction ends in a next state. -/
theorem exec_after_of {i : Instr} {s : State} (h : (next? (exec i s)).isSome = true) : exec i s = .next (after i s) := by
  cases ho : exec i s with
  | next t => exact ho ▸ exec_after ho
  | fault f => rw [ho] at h; cases h
  | refused f => rw [ho] at h; cases h

/-- The chain with a GET_OUTPUTS, an APPLY or a SET_INPUTS queued (95 §3.1). -/
def chainGet : State := { chainIdle with q := [hex 15 0x424743460106000400000080A02062] }
def chainApply : State := { chainIdle with q := [hex 15 0x4247434601030002000000EF6E8617] }
def chainSet : State :=
  { chainIdle with q := [hex 35 0x4247434601050005001400A1D32A290161020000000000000001620100000000000000] }

/-- SentFramesAreWellFormed: a list of entries, and a control step that sends an OUTPUTS. -/
theorem witness_SentFramesAreWellFormed : entriesOk [⟨y, 1⟩] = true ∧ chainGet.Inv ∧ (∀ p g, Event.control ≠ .launch p g) ∧
    perform .control chainGet = .next (after .controlStep chainGet) ∧
    (after .controlStep chainGet).hostOut = chainGet.hostOut ++ [.outputs 4 [⟨y, 0⟩]] :=
  ⟨by decide, sound_inv (by decide +kernel), nofun, by unfold perform; exact exec_after_of (by decide +kernel), by decide +kernel⟩

/-- ResetSetsEveryElement and LaunchAdmitsExactlyCheckedPrograms: admitted Programs, one with a name in `input_bits` and in
`output_bits`, and a refused one. -/
theorem witness_launch :
    paramsA.valid = true ∧ programA.keysDistinct = true ∧ admissionError paramsA programA = none ∧
    programA.cells.length = 4 ∧ inRegion chainParams ⟨3, 1⟩ = true ∧ (∀ r ∈ chainProgram.cells, r.coord ≠ ⟨3, 1⟩) ∧
    admissionError chainParams chainProgram = none ∧ admissionError paramsA programB ≠ none := by decide +kernel

/-- EveryStepKeepsTheInvariant: a tick, and the step of a tile that is stalled. -/
theorem witness_EveryStepKeepsTheInvariant : chain.Inv ∧ exec .tick chain = .next (after .tick chain) ∧ blockedB.Inv ∧
    step chain = .next (after .tick chain) := ⟨chain_inv, rfl, blockedB_inv, by
  have h : chain.ownEvent = some .tick := by decide +kernel
  have ha : chain.agenda = [] := by decide +kernel
  simp only [step, nextAgentStep, ha, h]
  rfl⟩

/-- OnlyTicksAndAppliesChangeTheFabric: the head frame is an APPLY, or a SET_INPUTS. -/
theorem witness_headIs : chainApply.headIs (.apply 2) ∧ chainSet.headIs (.setInputs 5 [⟨a, 2⟩, ⟨b, 1⟩]) ∧
    (∀ p g, Event.control ≠ .launch p g) ∧ perform .control chainApply = .next (after .controlStep chainApply) :=
  ⟨⟨_, _, rfl, by decide +kernel⟩, ⟨_, _, rfl, by decide +kernel⟩, nofun, by unfold perform; exact exec_after_of (by decide +kernel)⟩

/-- OnlyTicksAndAppliesChangeTheFabric and CountersOnlyIncrease: a tick and a rejected seam frame. -/
theorem witness_agentSteps : (∀ p g, Event.tick ≠ .launch p g) ∧ perform .tick chain = .next (after .tick chain) ∧
    perform (.seam .west frameA2) waitingB = .next (after (.seamReceive .west frameA2) waitingB) ∧
    Event.seam .west frameA2 ≠ .control ∧ Event.seam .west frameA2 ≠ .tick :=
  ⟨nofun, by unfold perform; exact exec_after rfl, by unfold perform; exact exec_after rfl, nofun, nofun⟩

/-- DecodeEncodeAgree: one instruction of each port. -/
theorem witness_DecodeEncodeAgree :
    (Instr.setInputs 5 [⟨a, 2⟩]).wf = true ∧ (encode (.setInputs 5 [⟨a, 2⟩])).isSome = true ∧
    (Instr.seamFrame .west ⟨1, 0, 1, [⟨1, 8⟩]⟩).wf = true ∧ (encode (.seamFrame .west ⟨1, 0, 1, [⟨1, 8⟩]⟩)).isSome = true ∧
    (Instr.bitstreamHeader 2 ⟨2, 2, 0, 1, 256, 0xE9E5F89A, 0⟩ payloadH).wf = true := by decide +kernel

end Sys2Proof.Tests
end

section
/-!
PROOFS. The invariant of the tile (10_state.md R22 to R45), rule by rule: what each operation on one edge, on the whole state and
on the uploaded bitstream keeps of it. A status that is blocked is the delicate part: an operation that writes the edges or the
pending ticks must say why the barrier still does not hold, or clear the status.
-/

namespace Sys2Proof.Machine

/-! ### The seam state of one edge -/

theorem lastTwo_length_le {α : Type} (l : List α) : (lastTwo l).length ≤ 2 := by
  rw [lastTwo, List.length_drop]
  omega

namespace EdgeSound

variable {p : Params} {e : Dir} {es : EdgeState}

theorem initial (p : Params) (e : Dir) : EdgeSound p e (EdgeState.initial (laneCount p e)) where
  half0 := List.length_replicate
  half1 := List.length_replicate
  retained := Nat.zero_le _
  neighbour := nofun
  policy := nofun

theorem setHalf (h : EdgeSound p e es) (q k : Nat) (v : Nibble) : EdgeSound p e (es.setHalf q k v) := by
  unfold EdgeState.setHalf
  split
  · exact { h with half0 := List.length_set.trans h.half0 }
  · exact { h with half1 := List.length_set.trans h.half1 }

theorem fillHalf (h : EdgeSound p e es) (q : Nat) (lanes : List Lane) :
    EdgeSound p e (lanes.foldl (fun es l => es.setHalf q l.lane.toNat l.value) es) := by
  induction lanes generalizing es with
  | nil => exact h
  | cons l lanes ih => exact ih (h.setHalf q l.lane.toNat l.value)

theorem accept (h : EdgeSound p e es) (f : SeamFrame) : EdgeSound p e (es.accept f) :=
  { h.fillHalf f.phase.toNat f.lanes with }

theorem bump (h : EdgeSound p e es) (k : FaultKind) : EdgeSound p e { es with fcount := es.fcount.bump k } :=
  { h with }

theorem retain (h : EdgeSound p e es) (r : Nat × Bytes) : EdgeSound p e { es with tx := lastTwo (es.tx ++ [r]) } :=
  { h with retained := lastTwo_length_le _ }

theorem clearHalves (h : EdgeSound p e es) : EdgeSound p e es.clearHalves :=
  { h with
    half0 := (List.length_map _).trans h.half0
    half1 := (List.length_map _).trans h.half1 }

theorem restart (h : EdgeSound p e es) : EdgeSound p e es.restart :=
  { h.clearHalves with retained := Nat.zero_le _, policy := nofun }

theorem link (h : EdgeSound p e es) (hn : hasNeighbour p e = true) :
    EdgeSound p e { es.clearHalves with linked := true, rxNext := 0, tx := [] } :=
  { h.clearHalves with retained := Nat.zero_le _, neighbour := fun _ => hn }

theorem unlink (h : EdgeSound p e es) : EdgeSound p e { es with linked := false, tx := [] } :=
  { h with retained := Nat.zero_le _, neighbour := nofun }

theorem substitute (h : EdgeSound p e es) (hp : p.policy = .holdLastGood) (x : Nat) :
    EdgeSound p e { es with rxNext := x, substituted := true } :=
  { h with policy := fun _ => hp }

end EdgeSound

/-! ### The upload and the bitstream in it -/

/-- The buffer a chunk goes to is sound where its total is within the limit (43_host_commands.md R247). -/
theorem State.uploadFor_sound {s : State} (h : s.Inv) {sid total : BitVec 32} (hl : total.toNat ≤ s.params.maxUpload) :
    UploadSound s.params (s.uploadFor sid total) := by
  have hfresh : UploadSound s.params ⟨sid, total, []⟩ := ⟨Memory.wf_nil, nofun, hl⟩
  unfold State.uploadFor
  cases hu : s.upload with
  | none => exact hfresh
  | some u =>
    dsimp only
    split
    · exact h.upload u hu
    · exact hfresh

theorem State.uploadFor_total (s : State) (sid total : BitVec 32) : (s.uploadFor sid total).total = total := by
  unfold State.uploadFor
  split
  · split
    · next hu => exact hu.2
    · rfl
  · rfl

/-- A chunk inside the announced total leaves a sound upload (R247). -/
theorem UploadSound.writeBytes {p : Params} {u : Upload} (h : UploadSound p u) {off : Nat} {chunk : Bytes}
    (hc : off + chunk.length ≤ u.total.toNat) : UploadSound p { u with mem := Memory.writeBytes u.mem off chunk } where
  canonical := Memory.wf_writeBytes off chunk h.canonical
  within := fun cell hcell => by
    rcases Memory.mem_writeBytes hcell with hold | ⟨_, hnew⟩
    · exact h.within cell hold
    · exact hnew.trans_le hc
  limited := h.limited

/-- DECODE_PAYLOAD answers one entry per cell (R251). -/
theorem decodeTables_length (payload : Bytes) (order w h : Nat) (lsbFirst : Bool) :
    (decodeTables payload order w h lsbFirst).length = w * h := by
  have hset : ∀ (ss : List Nat) (ts : List (PerDir Table)),
      (ss.foldl (fun ts s => ts.set (scanIndex order w h s) (payloadCell payload lsbFirst s)) ts).length = ts.length := by
    intro ss
    induction ss with
    | nil => exact fun _ => rfl
    | cons s ss ih => exact fun ts => (ih _).trans List.length_set
  rw [decodeTables, hset, List.length_replicate]

theorem decodeHeadered_length {p : Params} {b : Bytes} {ts : List (PerDir Table)}
    (h : decodeHeadered p b = .tables ts) : ts.length = cellCount p := by
  unfold decodeHeadered at h
  dsimp only at h
  split_ifs at h
  obtain rfl := BitstreamResult.tables.inj h
  exact decodeTables_length ..

/-- The tables of an accepted upload are the region's (R249 to R251). -/
theorem decodeUpload_length {p : Params} {b : Bytes} {ts : List (PerDir Table)}
    (h : decodeUpload p b = .tables ts) : ts.length = cellCount p := by
  unfold decodeUpload at h
  split_ifs at h
  · obtain rfl := BitstreamResult.tables.inj h
    exact decodeTables_length ..
  · exact decodeHeadered_length h

/-! ### The barrier and the status -/

/-- The barrier condition reads the tick count and, of each edge, the link and the count (42_seam_barrier.md R218). -/
theorem State.barrierOk_congr {s s' : State} (ht : s'.t = s.t) (hl : ∀ e, (s'.edge e).linked = (s.edge e).linked)
    (hr : ∀ e, (s'.edge e).rxNext = (s.edge e).rxNext) : s'.barrierOk = s.barrierOk := by
  simp only [State.barrierOk, ht, hl, hr]

/-- The barrier does not hold exactly where a linked edge lacks its frame (R218, R219). -/
theorem State.barrierOk_eq_false_iff (s : State) :
    s.barrierOk = false ↔ ∃ e, (s.edge e).linked = true ∧ (s.edge e).rxNext < s.t := by
  rw [← Bool.not_eq_true, State.barrierOk_iff]
  push Not
  rfl

theorem State.report_clearBarrier (s : State) (code : ErrorCode) :
    (s.report code).clearBarrier = s.clearBarrier.report code := by
  unfold State.report
  rw [State.clearBarrier_session]
  split <;> rfl

theorem State.edges_set_edge (s : State) (e e' : Dir) (es : EdgeState) :
    (s.edges.set e es).get e' = if e' = e then es else s.edge e' := PerDir.get_set ..

namespace State.Inv

variable {s : State}

/-- A tile with no ticks to run has a clear status (10_state.md R41). -/
theorem not_blocked (h : s.Inv) (hp : s.pending = 0) : s.bstat.blocked ≠ true := fun hb =>
  absurd (h.blocked hb).1 (by omega)

theorem not_halted (h : s.Inv) (hp : 0 < s.pending) : s.halted = false := by
  by_contra hh
  exact absurd (h.halted (by simpa using hh)).2.1 (by omega)

/-! ### What is sent and what arrives -/

theorem sendHost (h : s.Inv) (m : HostMsg) : (s.sendHost m).Inv := { h with }

theorem sendError (h : s.Inv) (seq : BitVec 16) (code : ErrorCode) : (s.sendError seq code).Inv := { h with }

theorem report (h : s.Inv) (code : ErrorCode) : (s.report code).Inv := by
  rw [State.report_frame]
  exact { h with }

theorem sendSeam (h : s.Inv) (e : Dir) (frame : Bytes) : (s.sendSeam e frame).Inv := { h with }

theorem withQueue (h : s.Inv) (q : List Bytes) : State.Inv { s with q := q } := { h with }

theorem withAgenda (h : s.Inv) (agenda : List Event) : State.Inv { s with agenda := agenda } := { h with }

theorem withValue (h : s.Inv) (v : Nibble) : State.Inv { s with value := v } := { h with }

/-! ### Gates of the control port -/

theorem betweenSteps (h : s.Inv) {run : State → State} (hrun : s.ready → (run s).Inv) : (s.betweenSteps run).Inv := by
  rcases s.betweenSteps_cases run with hs | ⟨hr, hs⟩
  · rwa [hs]
  · rw [hs]
    exact hrun hr

theorem inSession (h : s.Inv) (seq : BitVec 16) {run : State → State} (hrun : s.session = true → (run s).Inv) :
    (s.inSession seq run).Inv := by
  unfold State.inSession
  split
  · next hs => exact hrun hs
  · exact h.sendError seq .noSession

theorem command (h : s.Inv) (seq : BitVec 16) {run : State → State} (hrun : s.ready → (run s).Inv) :
    (s.command seq run).Inv :=
  h.betweenSteps fun hr => h.inSession seq fun _ => hrun hr

theorem endingCommand (h : s.Inv) (seq : BitVec 16) {run : State → State} (hrun : (run s).Inv) :
    (s.endingCommand seq run).Inv := by
  unfold State.endingCommand
  split
  · exact h
  · exact h.inSession seq fun _ => hrun

theorem seamFeature (h : s.Inv) (seq : BitVec 16) {run : State → State} (hrun : (run s).Inv) :
    (s.seamFeature seq run).Inv := by
  unfold State.seamFeature
  split
  · exact hrun
  · exact h.sendError seq .unknownType

/-! ### Edges and status -/

/-- New edges and a new status: the edges sound, and the status blocked only over a pending tick whose barrier does not hold. -/
theorem withSeam (h : s.Inv) {edges : PerDir EdgeState} {bstat : BarrierStatus}
    (hedges : ∀ e, EdgeSound s.params e (edges.get e))
    (hblocked : bstat.blocked = true → 0 < s.pending ∧ State.barrierOk { s with edges := edges } = false)
    (hclear : bstat.blocked = false → bstat = .clear) : State.Inv { s with edges := edges, bstat := bstat } :=
  { h with edges := hedges, blocked := hblocked, unblocked := hclear }

theorem edges_set (h : s.Inv) {e : Dir} {es : EdgeState} (hes : EdgeSound s.params e es) (e' : Dir) :
    EdgeSound s.params e' ((s.edges.set e es).get e') := by
  rw [State.edges_set_edge]
  split
  · next he => exact he ▸ hes
  · exact h.edges e'

/-- One edge replaced on a tile with no ticks to run. -/
theorem setEdge_idle (h : s.Inv) (hp : s.pending = 0) {e : Dir} {es : EdgeState} (hes : EdgeSound s.params e es) :
    (s.setEdge e es).Inv :=
  h.withSeam (h.edges_set hes) (fun hb => absurd hb (h.not_blocked hp)) h.unblocked

/-- One edge replaced by one with the same link and the same count, on which the barrier does not depend further. -/
theorem setEdge_sameCount (h : s.Inv) {e : Dir} {es : EdgeState} (hes : EdgeSound s.params e es)
    (hl : es.linked = (s.edge e).linked) (hr : es.rxNext = (s.edge e).rxNext) : (s.setEdge e es).Inv := by
  have hok : (s.setEdge e es).barrierOk = s.barrierOk := by
    refine State.barrierOk_congr rfl (fun e' => ?_) (fun e' => ?_) <;> rw [State.setEdge_edge] <;> split
    · next he => rw [hl, he]
    · rfl
    · next he => rw [hr, he]
    · rfl
  exact h.withSeam (h.edges_set hes) (fun hb => ⟨(h.blocked hb).1, hok.trans (h.blocked hb).2⟩) h.unblocked

theorem emitIfLinked (h : s.Inv) (e : Dir) (f : Nat) : (s.emitIfLinked e f).Inv := by
  unfold State.emitIfLinked
  split
  · exact (h.setEdge_sameCount ((h.edges e).retain _) rfl rfl).sendSeam _ _
  · exact h

/-- Blame touches the reason of a blocked status only (42_seam_barrier.md R217). -/
theorem blame (h : s.Inv) (e : Dir) (k : FaultKind) : (s.blame e k).Inv := by
  unfold State.blame
  split
  · next hb =>
    have hblocked : s.bstat.blocked = true := (Bool.and_eq_true_iff.1 hb).1
    exact { h with unblocked := fun hn => absurd (hblocked.symm.trans hn) (by decide) }
  · exact h

theorem seamFault (h : s.Inv) (e : Dir) (k : FaultKind) : (s.seamFault e k).Inv :=
  ((h.setEdge_sameCount ((h.edges e).bump k) rfl rfl).blame e k).report k.errorCode

/-- An accepted frame may complete the barrier; the status then clears (R216). -/
theorem acceptFrame (h : s.Inv) (e : Dir) (f : SeamFrame) : (s.acceptFrame e f).Inv := by
  have hedges := h.edges_set ((h.edges e).accept f)
  unfold State.acceptFrame
  rcases (s.setEdge e ((s.edge e).accept f)).unblock_cases with ⟨_, _, hu⟩ | ⟨hn, hu⟩ <;> rw [hu]
  · exact h.withSeam hedges nofun fun _ => rfl
  · exact h.withSeam hedges (fun hb => ⟨(h.blocked hb).1, Bool.eq_false_iff.2 fun hok => hn ⟨hb, hok⟩⟩) h.unblocked

theorem receiveParsed (h : s.Inv) (e : Dir) (frame : Option SeamFrame) : (s.receiveParsed e frame).Inv := by
  rcases s.receiveParsed_cases e frame with ⟨_, hs⟩ | ⟨_, _, _, hs⟩ | ⟨f, k, _, _, _, _, hs⟩ | ⟨f, _, _, _, _, hs⟩ <;> rw [hs]
  · exact h
  · exact h.seamFault e .frameCorrupt
  · exact h.seamFault e k
  · exact h.acceptFrame e f

/-- A substitution may complete the barrier; the status then clears (R221). -/
theorem substituteHeld (h : s.Inv) {e : Dir} (hp : s.params.policy = .holdLastGood) : (s.substituteHeld e).Inv := by
  have hedges := h.edges_set ((h.edges e).substitute hp ((s.edge e).rxNext + 1))
  unfold State.substituteHeld
  dsimp only
  rw [State.report_barrierOk, State.report_clearBarrier]
  split
  · have hclear := h.withSeam (bstat := BarrierStatus.clear) hedges nofun fun _ => rfl
    exact hclear.report .substituted
  · next hok =>
    exact (h.withSeam hedges (fun hb => ⟨(h.blocked hb).1, Bool.eq_false_iff.2 hok⟩) h.unblocked).report .substituted

/-- STALL blocks the status over a pending tick whose barrier does not hold (R219). -/
theorem stall (h : s.Inv) (he : s.stallEnabled = true) : s.enterStall.Inv := by
  obtain ⟨_, hp, hok, _⟩ := s.stallEnabled_iff.1 he
  have hb : State.Inv { s with bstat := s.blockedStatus } := h.withSeam h.edges (fun _ => ⟨hp, hok⟩) nofun
  unfold State.enterStall
  dsimp only
  split
  · exact hb
  · exact { hb.report .missing with }

/-! ### The fabric -/

theorem tickBody (h : s.Inv) : s.tickBody.Inv := by
  have hedges : ∀ e, EdgeSound s.params e (s.tickBody.edge e) := fun e => by
    rw [State.tickBody_edge]
    split
    · exact (h.edges e).retain _
    · exact h.edges e
  rw [State.tickBody_frame] at hedges ⊢
  exact { h with
    cur := s.nextBuffer_length
    nxt := s.nextBuffer_length
    edges := hedges
    pending := (Nat.sub_le ..).trans_lt h.pending
    halted := fun hh => ⟨(h.halted hh).1, by simp [(h.halted hh).2.1], (h.halted hh).2.2⟩
    blocked := nofun
    unblocked := fun _ => rfl }

theorem tickIfEnabled (h : s.Inv) : s.tickIfEnabled.Inv := by
  unfold State.tickIfEnabled
  split
  · exact h.tickBody
  · exact h

/-- COMMIT of tables of the region restarts every edge and clears the status (43_host_commands.md R252). -/
theorem commitTables (h : s.Inv) {ts : List (PerDir Table)} (hts : ts.length = cellCount s.params) :
    (s.commitTables ts).Inv :=
  { h with
    lut := hts
    cur := (List.length_map _).trans h.cur
    edges := fun e => by
      rw [State.commitTables_edge]
      exact (h.edges e).restart
    blocked := nofun
    unblocked := fun _ => rfl }

theorem applyBitstream (h : s.Inv) (seq : BitVec 16) (b : Bytes) : (s.applyBitstream seq b).Inv := by
  unfold State.applyBitstream
  split
  · next hts => exact h.commitTables (decodeUpload_length hts)
  · exact h.sendError seq _

/-! ### The session, its upload and its inputs -/

/-- The end of a session leaves no ticks, no upload and a clear status, halted or not (R257, R258). -/
theorem endSession (h : s.Inv) (halted : Bool) : State.Inv { s.endSession with halted := halted } :=
  { h with
    upload := nofun
    pending := Nat.two_pow_pos 32
    halted := fun _ => ⟨rfl, rfl, rfl⟩
    blocked := nofun
    unblocked := fun _ => rfl }

theorem withUpload (h : s.Inv) (hh : s.halted = false) {u : Option Upload}
    (hu : ∀ v, u = some v → UploadSound s.params v) : State.Inv { s with upload := u } :=
  { h with upload := hu, halted := fun hh' => by rw [hh] at hh'; cases hh' }

/-- A written input keeps its register below its width (R253, 10_state.md R30). -/
theorem writeInput (h : s.Inv) (n : VarName) (v : BitVec 64) : (s.writeInput n v).Inv := by
  unfold State.writeInput
  split
  · next w hw =>
    refine { h with inputs := (updateName_names ..).trans h.inputs, inputBits := fun m k hk => ?_ }
    have hk' : s.inWidth m = some k := hk
    simp only [State.inValue, lookupName_updateName]
    split
    · next hm =>
      obtain rfl : w = k := by simpa [hm.1, hw] using hk'
      exact (Nat.mod_le ..).trans_lt (Nat.mod_lt _ (Nat.two_pow_pos w))
    · exact h.inputBits m k hk'
  · exact h

theorem writeInputs (h : s.Inv) (entries : List TlvEntry) :
    (entries.foldl (fun s t => s.writeInput t.name t.value) s).Inv := by
  induction entries generalizing s with
  | nil => exact h
  | cons t entries ih => exact ih (h.writeInput t.name t.value)

end State.Inv

end Sys2Proof.Machine
end

section
/-!
PROOFS. What an admitted launch has passed (40_lut_eval.md R145 to R151), and the invariant of the tile it starts
(70_reset_and_hazards.md R340, R341).
-/

namespace Sys2Proof.Machine

/-! ### What the launch checks say -/

theorem firstError_eq_none_iff {checks : List (Option ErrorCode)} :
    firstError checks = none ↔ ∀ check ∈ checks, check = none := List.findSome?_eq_none_iff

theorem require_eq_none_iff {ok : Bool} {code : ErrorCode} : require ok code = none ↔ ok = true := by
  cases ok <;> simp [require]

/-- A check over every pin passes where it passes on each (60_exceptions.md R312). -/
theorem pinsError_eq_none_iff {g : Program} {check : Coord → RawSource → Option ErrorCode} :
    pinsError g check = none ↔ ∀ r ∈ g.cells, ∀ src ∈ r.pins, check r.coord src = none := by
  simp only [pinsError, firstError_eq_none_iff, List.forall_mem_map]

/-- Every declaration has a width and a name (R149). -/
theorem declarationsError_eq_none_iff {g : Program} : declarationsError g = none ↔
    (∀ d ∈ g.inputBits, nameOk d.1 = true ∧ widthOk d.2 = true) ∧
    ∀ d ∈ g.outputBits, nameOk d.1 = true ∧ widthOk d.2.length = true := by
  simp only [declarationsError, firstError_eq_none_iff, List.forall_mem_cons, require_eq_none_iff, Bool.and_eq_true,
    List.all_eq_true, forall_and]
  tauto

/-- Every tap is in the region, with a direction (R151). -/
theorem tapsError_eq_none_iff {p : Params} {g : Program} : tapsError p g = none ↔
    ∀ d ∈ g.outputBits, ∀ tap ∈ d.2, inRegion p ⟨tap.x, tap.y⟩ = true ∧ (dirOfInt tap.dir).isSome = true := by
  simp only [tapsError, firstError_eq_none_iff, List.forall_mem_map, List.forall_mem_cons, require_eq_none_iff,
    List.not_mem_nil, false_implies, implies_true, and_true]

/-- Admission is the passing of all nine groups of checks (R312). -/
theorem admissionError_eq_none_iff {p : Params} {g : Program} : admissionError p g = none ↔
    dimensionError p g = none ∧ recordsError [] g.cells = none ∧ declarationsError g = none ∧
    (∀ r ∈ g.cells, inRegion p r.coord = true) ∧
    (∀ r ∈ g.cells, ∀ src ∈ r.pins, cellSourceError p src = none ∧ constSourceError src = none ∧
      adjacencyError r.coord src = none ∧ inputSourceError g src = none) ∧
    tapsError p g = none := by
  simp only [admissionError, firstError_eq_none_iff, List.forall_mem_cons, List.forall_mem_map, require_eq_none_iff,
    pinsError_eq_none_iff, List.not_mem_nil, false_implies, implies_true, and_true, forall_and]
  tauto

/-! ### The selectors of an admitted Program -/

/-- The name a list maps to one value has that value. -/
theorem lookupName_map_const {α β : Type} (l : List (VarName × α)) (n : VarName) (v : β) :
    lookupName n (l.map fun d => (d.1, v)) = (lookupName n l).map fun _ => v := by
  induction l with
  | nil => rfl
  | cons d l ih =>
    obtain ⟨m, w⟩ := d
    simp only [List.map_cons, lookupName_cons, ih]
    split <;> rfl

/-- A source that passes the checks of its pin resolves to a selector the invariant allows (R146 to R148). -/
theorem resolved_sourceFits {p : Params} {g : Program} {c : Coord} {src : RawSource} (drawn : Nat) (agenda : List Event)
    (hcell : cellSourceError p src = none) (hadj : adjacencyError c src = none) (hin : inputSourceError g src = none) :
    (initialState p g drawn agenda).sourceFits c src.resolved = true := by
  cases src with
  | null | const v | other => rfl
  | input n b =>
    have hw : (initialState p g drawn agenda).inWidth n = lookupName n g.inputBits := rfl
    simp only [RawSource.resolved, State.sourceFits, hw]
    simp only [inputSourceError] at hin
    cases hl : lookupName n g.inputBits with
    | none => simp [hl] at hin
    | some w => exact require_eq_none_iff.1 (by simpa only [hl] using hin)
  | cell x y out =>
    simp only [cellSourceError, firstError_eq_none_iff, List.forall_mem_cons, require_eq_none_iff] at hcell
    exact Bool.and_eq_true_iff.2 ⟨hcell.1, require_eq_none_iff.1 hadj⟩

/-- Selector `d` of a record is unwired or the selector of one of its pins. -/
theorem sources_get_cases (r : CellRecord) (d : Dir) :
    r.sources.get d = .unwired ∨ ∃ src ∈ r.pins, r.sources.get d = src.resolved := by
  have hget : r.sources.get d = (r.pins.getD d.code .null).resolved := by cases d <;> rfl
  rw [hget, List.getD_eq_getElem?_getD]
  cases hpin : r.pins[d.code]? with
  | none => exact Or.inl rfl
  | some src => exact Or.inr ⟨src, List.mem_of_getElem? hpin, rfl⟩

/-- The selectors of a launch at a cell of the region: those of its record, or unwired (10_state.md R22, R24). -/
theorem initialState_srcAt {p : Params} (g : Program) (drawn : Nat) (agenda : List Event) {c : Coord}
    (hc : inRegion p c = true) (d : Dir) : (initialState p g drawn agenda).srcAt c d =
      (((g.recordAt c).map CellRecord.sources).getD (PerDir.all .unwired)).get d := by
  have h := getD_map_regionCoords (fun c => ((g.recordAt c).map CellRecord.sources).getD (PerDir.all .unwired))
    (PerDir.all .unwired) hc
  exact congrArg (PerDir.get · d) h

theorem initialState_sourceFits {p : Params} {g : Program} (hadm : admissionError p g = none) (drawn : Nat)
    (agenda : List Event) {c : Coord} (hc : inRegion p c = true) (d : Dir) :
    (initialState p g drawn agenda).sourceFits c ((initialState p g drawn agenda).srcAt c d) = true := by
  obtain ⟨_, _, _, _, hpins, _⟩ := admissionError_eq_none_iff.1 hadm
  rw [initialState_srcAt g drawn agenda hc]
  cases hr : g.recordAt c with
  | none => simp only [Option.map_none, Option.getD_none, PerDir.get_all]; rfl
  | some r =>
    have hmem : r ∈ g.cells := List.mem_of_find?_eq_some hr
    have hcoord : r.coord = c := by simpa using List.find?_some hr
    rcases sources_get_cases r d with hsrc | ⟨src, hsrc, hres⟩
    · simp only [Option.map_some, Option.getD_some, hsrc]
      rfl
    · obtain ⟨hcell, _, hadj, hin⟩ := hpins r hmem src hsrc
      simp only [Option.map_some, Option.getD_some, hres]
      exact resolved_sourceFits drawn agenda hcell (hcoord ▸ hadj) hin

/-! ### The launched tile -/

/-- An admitted launch starts a tile that meets the invariant, whatever agenda and count of texts it goes on with (R341). -/
theorem initialState_inv {p : Params} {g : Program} (hp : p.valid = true) (hkeys : g.keysDistinct = true)
    (hadm : admissionError p g = none) (drawn : Nat) (agenda : List Event) : (initialState p g drawn agenda).Inv := by
  obtain ⟨_, _, hdecl, _, _, htaps⟩ := admissionError_eq_none_iff.1 hadm
  obtain ⟨hinDecl, houtDecl⟩ := declarationsError_eq_none_iff.1 hdecl
  rw [tapsError_eq_none_iff] at htaps
  rw [Program.keysDistinct, Bool.and_eq_true, decide_eq_true_eq] at hkeys
  exact {
    params := hp
    lut := (List.length_map _).trans regionCoords_length
    src := (List.length_map _).trans regionCoords_length
    cur := List.length_replicate
    nxt := List.length_replicate
    sources := fun c d hc => initialState_sourceFits hadm drawn agenda hc d
    inDecl := hinDecl
    inOnce := hkeys.1
    inputs := by simp [initialState]
    inputBits := fun n w _ => by
      have hzero : (initialState p g drawn agenda).inValue n = 0 := by
        simp only [State.inValue, initialState, lookupName_map_const]
        cases lookupName n g.inputBits <;> rfl
      rw [hzero]
      exact Nat.two_pow_pos w
    outDecl := List.forall_mem_map.2 fun d hd =>
      ⟨(houtDecl d hd).1, by simpa using (houtDecl d hd).2, List.forall_mem_map.2 fun tap htap => (htaps d hd tap htap).1⟩
    edges := fun e => by cases e <;> exact EdgeSound.initial p _
    upload := nofun
    pending := Nat.two_pow_pos 32
    halted := nofun
    blocked := nofun
    unblocked := fun _ => rfl }

end Sys2Proof.Machine
end

section
/-!
PROOFS. Every instruction and every step keeps the invariant of the tile, and what STALL shows of it (10_state.md R22 to R45).
-/

namespace Sys2Proof.Machine

/-- Where an outcome is a next state, that state meets the invariant. -/
def OutcomeSound (o : Host.Outcome State Fault Refusal) : Prop := ∀ t, o = .next t → t.Inv

theorem OutcomeSound.next {t : State} (h : t.Inv) : OutcomeSound (.next t) := by
  rintro _ ⟨⟩
  exact h

theorem OutcomeSound.fault (f : Fault) : OutcomeSound (.fault f) := fun _ h => by cases h

theorem OutcomeSound.refused (r : Refusal) : OutcomeSound (.refused r) := fun _ h => by cases h

/-- An operation that runs only on operands of its domain. -/
theorem OutcomeSound.guard {ok : Prop} [Decidable ok] {t : State} (f : Fault) (h : ok → t.Inv) :
    OutcomeSound (if ok then .next t else .fault f) := by
  split
  · next hok => exact .next (h hok)
  · exact .fault f

section Commands

variable {s : State} (seq : BitVec 16)

/-! ### The session and data commands (43_host_commands.md R243 to R258) -/

theorem execHello_sound (h : s.Inv) (w ht : BitVec 16) (v : Byte) (f : BitVec 32) :
    OutcomeSound (execHello seq w ht v f s) := by
  refine .next (h.betweenSteps fun hr => ?_)
  split
  · exact h.sendError seq .badVersion
  · have hopen : State.Inv { s with session := true, upload := none } :=
      { h with upload := nofun, halted := fun hh => by cases hr.1.symm.trans hh }
    exact hopen.sendHost _

theorem execSetInputs_sound (h : s.Inv) (entries : List TlvEntry) : OutcomeSound (execSetInputs seq entries s) := by
  refine .next (h.command seq fun _ => ?_)
  split
  · exact h.sendError seq .undeclaredName
  · exact h.writeInputs entries

/-- STEP is taken between STEPs, when the status is not blocked, so it can put ticks before a tile whatever its barrier is. -/
theorem execStep_sound (h : s.Inv) (ticks : BitVec 32) : OutcomeSound (execStep seq ticks s) :=
  .next (h.command seq fun hr =>
    { h with
      pending := ticks.isLt
      halted := fun hh => by cases hr.1.symm.trans hh
      blocked := fun hb => absurd hb (h.not_blocked hr.2) })

theorem execGetOutputs_sound (h : s.Inv) (sel : List TlvEntry) : OutcomeSound (execGetOutputs seq sel s) := by
  refine .next (h.command seq fun _ => ?_)
  dsimp only
  split_ifs
  · exact h.sendError seq .undeclaredName
  · exact h.sendError seq .replyTooLarge
  · exact h.sendHost _

theorem execQuit_sound (h : s.Inv) : OutcomeSound (execQuit seq s) :=
  .next (h.endingCommand seq (h.endSession s.halted))

theorem execShutdown_sound (h : s.Inv) : OutcomeSound (execShutdown seq s) :=
  .next (h.endingCommand seq (h.endSession true))

/-- A frame between STEPs that is only answered. -/
theorem answered_sound (h : s.Inv) (code : ErrorCode) :
    OutcomeSound (.next (s.betweenSteps fun s => s.sendError seq code)) :=
  .next (h.betweenSteps fun _ => h.sendError seq code)

/-! ### The seam commands (R259, R260) -/

theorem execLink_sound (h : s.Inv) (edge : Byte) : OutcomeSound (execLink seq edge s) := by
  refine .next (h.betweenSteps fun hr => h.seamFeature seq (h.inSession seq fun _ => ?_))
  cases Dir.ofCode edge.toNat with
  | none => exact h.sendError seq .badEdge
  | some e =>
    dsimp only
    split_ifs with hn
    · exact h.sendError seq .badEdge
    · exact h.sendError seq .linkNotAtStart
    · exact h.sendError seq .alreadyLinked
    · exact (h.setEdge_idle hr.2 ((h.edges e).link (by simpa using hn))).sendHost _

theorem execUnlink_sound (h : s.Inv) (edge : Byte) : OutcomeSound (execUnlink seq edge s) := by
  refine .next (h.betweenSteps fun hr => h.seamFeature seq (h.inSession seq fun _ => ?_))
  cases Dir.ofCode edge.toNat with
  | none => exact h.sendError seq .badEdge
  | some e =>
    dsimp only
    split_ifs
    · exact h.sendError seq .notLinked
    · exact (h.setEdge_idle hr.2 (h.edges e).unlink).sendHost _

/-! ### The configuration commands (R247, R248) -/

theorem execLoadChunk_sound (h : s.Inv) (sid total off : BitVec 32) (chunk : Bytes) :
    OutcomeSound (execLoadChunk seq sid total off chunk s) := by
  refine .next (h.command seq fun hr => ?_)
  dsimp only
  split_ifs with hlimit hrange
  · exact h.sendError seq .uploadTooLarge
  · exact h.sendError seq .chunkOutOfRange
  · refine h.withUpload hr.1 fun _ hu => ?_
    obtain rfl := Option.some.inj hu
    refine (State.uploadFor_sound h (not_lt.1 hlimit)).writeBytes ?_
    rw [State.uploadFor_total]
    exact not_lt.1 hrange

theorem execApply_sound (h : s.Inv) : OutcomeSound (execApply seq s) := by
  refine .next (h.command seq fun hr => ?_)
  split
  · exact h.sendError seq .incompleteUpload
  · split
    · exact (h.withUpload hr.1 fun _ hu => by cases hu).applyBitstream seq _
    · exact h.sendError seq .incompleteUpload

end Commands

/-! ### Instructions -/

section Steps

variable {s : State}

/-- Every control command keeps the invariant. -/
theorem exec_control_sound (h : s.Inv) {i : Instr} (hi : Instr.isControl i = true) : OutcomeSound (exec i s) := by
  cases i with
  | hello seq w ht v f => exact execHello_sound seq h w ht v f
  | loadChunk seq sid total off chunk => exact execLoadChunk_sound seq h sid total off chunk
  | apply seq => exact execApply_sound seq h
  | step seq ticks => exact execStep_sound seq h ticks
  | setInputs seq entries => exact execSetInputs_sound seq h entries
  | getOutputs seq sel => exact execGetOutputs_sound seq h sel
  | quit seq => exact execQuit_sound seq h
  | shutdown seq => exact execShutdown_sound seq h
  | link seq edge => exact execLink_sound seq h edge
  | unlink seq edge => exact execUnlink_sound seq h edge
  | outputs seq | linkAck seq | error seq => exact answered_sound seq h .unexpectedType
  | unknownType seq => exact answered_sound seq h .unknownType
  | _ => cases hi

/-- A rejected frame is answered or counted (R241 to R245). -/
theorem State.Inv.rejectFrame (h : s.Inv) (why : DecodeError) : (s.rejectFrame why).Inv := by
  cases why with
  | notFramed => exact { h with }
  | badVersion seq => exact h.sendError seq .badVersion
  | malformedPayload seq type =>
    have hanswer := h.sendError seq .malformedPayload
    have hsession := h.inSession seq (run := (State.sendError · seq .malformedPayload)) fun _ => hanswer
    unfold State.rejectFrame
    dsimp only
    split_ifs
    · exact hanswer
    · exact h.seamFeature seq hsession
    · exact hsession
  | seamFrameCorrupt | notBitstreamHeader => exact h

/-- CONTROL_STEP runs the command its head frame decodes to, or rejects the frame (R241). -/
theorem execControlStep_sound (h : s.Inv) : OutcomeSound (execControlStep s) := by
  unfold execControlStep
  split
  · split
    · exact .next h
    · next frame rest _ =>
      have htaken := h.withQueue rest
      cases hd : decodeControl frame with
      | instr i =>
        have hi := decodeControl_isControl hd
        dsimp only
        rw [executeFrame_eq_exec hi]
        exact exec_control_sound htaken hi
      | rejected why => exact .next (htaken.rejectFrame why)
  · exact .next h

theorem execReset_sound (p : Params) (g : Program) : OutcomeSound (execReset p g s) := by
  unfold execReset
  split
  · next hok =>
    obtain ⟨hp, hkeys⟩ := Bool.and_eq_true_iff.1 hok
    cases hadm : admissionError p g with
    | none => exact .next (initialState_inv hp hkeys hadm s.freeCount s.agenda)
    | some code => exact .refused _
  · exact .refused _

theorem execBitstreamHeader_sound (h : s.Inv) (seq : BitVec 16) (header : BitstreamHeader) (payload : Bytes) :
    OutcomeSound (execBitstreamHeader seq header payload s) := by
  refine .next ?_
  split
  · exact h
  · exact h.applyBitstream seq _

theorem execCycle_sound (h : s.Inv) : OutcomeSound (execCycle s) := by
  refine .next ?_
  split
  · exact h.tickIfEnabled.tickIfEnabled
  · exact h

theorem execEmitFrame_sound (h : s.Inv) (e : Dir) (f : Nat) : OutcomeSound (execEmitFrame e f s) := by
  refine .next ?_
  split
  · exact h
  · exact h.emitIfLinked e f

theorem execResend_sound (h : s.Inv) (e : Dir) (epoch : BitVec 32) (phase : Byte) :
    OutcomeSound (execResend e epoch phase s) := by
  refine .next ?_
  split
  · exact h
  · split
    · exact h.sendSeam e _
    · exact h

theorem execStall_sound (h : s.Inv) : OutcomeSound (execStall s) := by
  refine .next ?_
  split
  · next he => exact h.stall he
  · exact h

theorem execSeamRead_sound (h : s.Inv) (c : Coord) (out : Dir) : OutcomeSound (execSeamRead c out s) := by
  unfold execSeamRead
  split
  · exact .next (h.withValue _)
  · exact .fault _

theorem execSubstituteHeld_sound (h : s.Inv) (e : Dir) : OutcomeSound (execSubstituteHeld e s) := by
  refine .next ?_
  split
  · next he =>
    simp only [State.substituteEnabled, Bool.and_eq_true, decide_eq_true_eq] at he
    obtain ⟨⟨⟨hpolicy, _⟩, _⟩, _⟩ := he
    exact h.substituteHeld hpolicy
  · exact h

/-- Every instruction keeps the invariant: the control commands, and here the frames at the other ports and the operations of the
block itself. -/
theorem exec_sound (h : s.Inv) (i : Instr) : OutcomeSound (exec i s) := by
  cases hi : Instr.isControl i with
  | true => exact exec_control_sound h hi
  | false =>
    cases i with
    | seamFrame port f => exact .next (h.receiveParsed port (some f))
    | bitstreamHeader seq header payload => exact execBitstreamHeader_sound h seq header payload
    | evalLut table idx => exact .next (h.withValue _)
    | resolve src => exact .guard _ fun _ => h.withValue _
    | index c => exact .guard _ fun _ => h.withValue _
    | evalCell c => exact .guard _ fun _ => { h with nxt := List.length_set.trans h.nxt }
    | tick => exact .next h.tickIfEnabled
    | cycle => exact execCycle_sound h
    | emitFrame e f => exact execEmitFrame_sound h e f
    | resend e epoch phase => exact execResend_sound h e epoch phase
    | seamReceive e frame => exact .next (h.receiveParsed e (decodeSeam frame))
    | stall => exact execStall_sound h
    | seamRead c out => exact execSeamRead_sound h c out
    | substituteHeld e => exact execSubstituteHeld_sound h e
    | controlStep => exact execControlStep_sound h
    | commit tables => exact .guard _ h.commitTables
    | reset p g => exact execReset_sound p g
    | _ => cases hi

/-! ### Agent steps -/

theorem perform_sound (h : s.Inv) (ev : Event) : OutcomeSound (perform ev s) := by
  cases ev with
  | deliver frame => exact .next (h.withQueue _)
  | control => exact exec_sound h .controlStep
  | seam e frame => exact exec_sound h (.seamReceive e frame)
  | tick => exact exec_sound h .tick
  | stall => exact exec_sound h .stall
  | substitute e => exact exec_sound h (.substituteHeld e)
  | resend e epoch phase => exact exec_sound h (.resend e epoch phase)
  | launch p g => exact exec_sound h (.reset p g)

theorem step_sound (h : s.Inv) : OutcomeSound (step s) := by
  unfold step nextAgentStep
  split
  · next ev rest _ => exact perform_sound (h.withAgenda rest) ev
  · split
    · next ev _ => exact perform_sound h ev
    · exact .next h

/-! ### The blocked status after STALL -/

/-- Where STALL has nothing to do over a blocked tick, the status shows the block already (10_state.md R41; log 9). -/
theorem State.Inv.blocked_of_not_stallEnabled (h : s.Inv) (he : s.stallEnabled = false) (hp : 0 < s.pending)
    (hok : s.barrierOk = false) : s.bstat.blocked = true := by
  by_contra hb
  have hen : s.stallEnabled = true :=
    s.stallEnabled_iff.2 ⟨h.not_halted hp, hp, hok, fun _ => Bool.eq_false_iff.2 hb⟩
  cases he.symm.trans hen

/-- STALL leaves a status that is blocked wherever the pending tick is. -/
theorem exec_stall_shows (h : s.Inv) : ∃ t, exec .stall s = .next t ∧
    (0 < t.pending → t.barrierOk = false → t.bstat.blocked = true) := by
  rcases s.exec_stall_cases with ⟨he, hx⟩ | ⟨_, _, hx⟩ | ⟨_, _, hx⟩
  · exact ⟨_, hx, h.blocked_of_not_stallEnabled he⟩
  · exact ⟨_, hx, fun _ _ => by rw [State.afterReport_bstat]; rfl⟩
  · exact ⟨_, hx, fun _ _ => rfl⟩

end Steps

/-! ### The statements -/

/-- Settles O55: every instruction keeps the invariant (`exec_sound`), and so does every step, which is one agent step. -/
theorem everyStepKeepsTheInvariant : Obligations.EveryStepKeepsTheInvariant :=
  ⟨fun i _ t h => exec_sound h i t, fun _ t h => step_sound h t⟩

/-- Settles O39: one direction is the invariant of the state after STALL (O55), the other is what STALL is for. -/
theorem stallShowsTheBlockedTick : Obligations.StallShowsTheBlockedTick := by
  intro s h
  obtain ⟨t, hx, hshows⟩ := exec_stall_shows h
  have ht : t.Inv := exec_sound h .stall t hx
  refine ⟨t, hx, ?_⟩
  rw [← State.barrierOk_eq_false_iff]
  exact ⟨ht.blocked, fun ⟨hp, hok⟩ => hshows hp hok⟩

end Sys2Proof.Machine
end

section
/-!
PROOFS. What an agent step leaves of the configuration and of the fabric (10_state.md R21 to R31, 20_memory.md R82, R83): every
operation but TICK, APPLY and SET_INPUTS keeps the part of the state that `State.fabric` names, and each of these three changes its
own fields of it.
-/

namespace Sys2Proof.Machine

/-! ### The fabric's part of the state -/

/-- What only a launch sets: parameters, selectors, declarations and latency (10_state.md R21, R24 to R27). -/
structure Configuration where
  params : Params
  src : List (PerDir Source)
  inDecl : List (VarName × Nat)
  outDecl : List (VarName × List Tap)
  latency : Nat

/-- The configuration with the tables, the input registers, the committed outputs and the tick count (R22, R28, R30, R31). -/
structure FabricState where
  config : Configuration
  lut : List (PerDir Table)
  ins : List (VarName × BitVec 64)
  cur : List Nibble
  t : Nat

def State.config (s : State) : Configuration := ⟨s.params, s.src, s.inDecl, s.outDecl, s.latency⟩

def State.fabric (s : State) : FabricState := ⟨s.config, s.lut, s.ins, s.cur, s.t⟩

theorem State.config_eq_iff {s t : State} : t.config = s.config ↔
    t.params = s.params ∧ t.src = s.src ∧ t.inDecl = s.inDecl ∧ t.outDecl = s.outDecl ∧ t.latency = s.latency := by
  simp only [State.config, Configuration.mk.injEq]

theorem State.fabric_eq_iff {s t : State} : t.fabric = s.fabric ↔
    t.config = s.config ∧ t.lut = s.lut ∧ t.ins = s.ins ∧ t.cur = s.cur ∧ t.t = s.t := by
  simp only [State.fabric, FabricState.mk.injEq]

/-- How `t` may differ from `s` in the fabric's part: the tables where `apply` holds, the inputs where `inputs` holds, the outputs
and the tick count where `tick` holds, or where `apply` holds and they start again from 0. -/
structure FabricChange (tick apply inputs : Prop) (s t : State) : Prop where
  config : t.config = s.config
  lut : t.lut = s.lut ∨ apply
  ins : t.ins = s.ins ∨ inputs
  outputs : (t.cur = s.cur ∧ t.t = s.t) ∨ tick ∨ (apply ∧ t.cur = List.replicate s.cur.length 0 ∧ t.t = 0)

namespace FabricChange

variable {tick apply inputs tick' apply' inputs' : Prop} {s t : State}

theorem of_fabric_eq (h : t.fabric = s.fabric) : FabricChange tick apply inputs s t := by
  obtain ⟨hconfig, hlut, hins, hcur, ht⟩ := State.fabric_eq_iff.1 h
  exact ⟨hconfig, .inl hlut, .inl hins, .inl ⟨hcur, ht⟩⟩

theorem imp (h : FabricChange tick apply inputs s t) (htick : tick → tick') (happly : apply → apply')
    (hinputs : inputs → inputs') : FabricChange tick' apply' inputs' s t where
  config := h.config
  lut := h.lut.imp_right happly
  ins := h.ins.imp_right hinputs
  outputs := h.outputs.imp_right (Or.imp htick (And.imp_left happly))

end FabricChange

/-- Where an outcome is a next state, that state has the fabric of `s`. -/
def KeepsFabric (s : State) (o : Host.Outcome State Fault Refusal) : Prop := ∀ t, o = .next t → t.fabric = s.fabric

theorem KeepsFabric.next {s t : State} (h : t.fabric = s.fabric) : KeepsFabric s (.next t) := by
  rintro _ ⟨⟩
  exact h

/-! ### Gates of the control port -/

section Gates

variable {s : State} {run : State → State}

theorem State.betweenSteps_fabric (h : (run s).fabric = s.fabric) : (s.betweenSteps run).fabric = s.fabric := by
  rcases s.betweenSteps_cases run with hs | ⟨_, hs⟩ <;> rw [hs]
  exact h

theorem State.inSession_fabric (seq : BitVec 16) (h : (run s).fabric = s.fabric) :
    (s.inSession seq run).fabric = s.fabric := by
  unfold State.inSession
  split
  · exact h
  · rfl

theorem State.command_fabric (seq : BitVec 16) (h : (run s).fabric = s.fabric) :
    (s.command seq run).fabric = s.fabric :=
  State.betweenSteps_fabric (State.inSession_fabric seq h)

theorem State.endingCommand_fabric (seq : BitVec 16) (h : (run s).fabric = s.fabric) :
    (s.endingCommand seq run).fabric = s.fabric := by
  unfold State.endingCommand
  split
  · rfl
  · exact State.inSession_fabric seq h

theorem State.seamFeature_fabric (seq : BitVec 16) (h : (run s).fabric = s.fabric) :
    (s.seamFeature seq run).fabric = s.fabric := by
  unfold State.seamFeature
  split
  · exact h
  · rfl

end Gates

/-! ### Operations that keep the fabric -/

section Keep

variable (s : State)

@[simp] theorem State.report_fabric (code : ErrorCode) : (s.report code).fabric = s.fabric := by
  rw [State.report_frame]
  rfl

theorem State.receiveParsed_fabric (e : Dir) (frame : Option SeamFrame) : (s.receiveParsed e frame).fabric = s.fabric := by
  have hfault : ∀ k, (s.seamFault e k).fabric = s.fabric := fun k => by rw [State.seamFault_frame]; rfl
  rcases s.receiveParsed_cases e frame with ⟨_, hs⟩ | ⟨_, _, _, hs⟩ | ⟨_, k, _, _, _, _, hs⟩ | ⟨f, _, _, _, _, hs⟩ <;> rw [hs]
  · exact hfault .frameCorrupt
  · exact hfault k
  · rw [State.acceptFrame_frame]
    rfl

theorem State.substituteHeld_fabric (e : Dir) : (s.substituteHeld e).fabric = s.fabric := by
  unfold State.substituteHeld
  dsimp only
  split
  · rw [State.report_clearBarrier, State.report_fabric]
    rfl
  · rw [State.report_fabric]
    rfl

theorem State.rejectFrame_fabric (why : DecodeError) : (s.rejectFrame why).fabric = s.fabric := by
  cases why with
  | malformedPayload seq type =>
    have hsession := State.inSession_fabric (s := s) (run := (State.sendError · seq .malformedPayload)) seq rfl
    unfold State.rejectFrame
    dsimp only
    split_ifs
    · rfl
    · exact State.seamFeature_fabric seq hsession
    · exact hsession
  | notFramed | badVersion | seamFrameCorrupt | notBitstreamHeader => rfl

theorem exec_stall_fabric : KeepsFabric s (exec .stall s) := by
  rcases s.exec_stall_cases with ⟨_, hx⟩ | ⟨_, _, hx⟩ | ⟨_, _, hx⟩ <;> rw [hx]
  · exact .next rfl
  · rw [← State.report_eq]
    exact .next (State.report_fabric _ _)
  · exact .next rfl

theorem exec_resend_fabric (e : Dir) (epoch : BitVec 32) (phase : Byte) : KeepsFabric s (exec (.resend e epoch phase) s) := by
  refine .next ?_
  split
  · rfl
  · split <;> rfl

theorem exec_substituteHeld_fabric (e : Dir) : KeepsFabric s (exec (.substituteHeld e) s) := by
  refine .next ?_
  split
  · exact s.substituteHeld_fabric e
  · rfl

theorem exec_link_fabric (seq : BitVec 16) (edge : Byte) : KeepsFabric s (exec (.link seq edge) s) := by
  refine .next (State.betweenSteps_fabric (State.seamFeature_fabric seq (State.inSession_fabric seq ?_)))
  split
  · rfl
  · split_ifs <;> rfl

theorem exec_unlink_fabric (seq : BitVec 16) (edge : Byte) : KeepsFabric s (exec (.unlink seq edge) s) := by
  refine .next (State.betweenSteps_fabric (State.seamFeature_fabric seq (State.inSession_fabric seq ?_)))
  split
  · rfl
  · split_ifs <;> rfl

/-- Of the commands of the control port, all but APPLY and SET_INPUTS keep the fabric (43_host_commands.md R243 to R262). -/
theorem exec_control_fabric {i : Instr} (hi : Instr.isControl i = true) (happly : ∀ seq, i ≠ .apply seq)
    (hset : ∀ seq es, i ≠ .setInputs seq es) : KeepsFabric s (exec i s) := by
  cases i with
  | apply seq => exact absurd rfl (happly seq)
  | setInputs seq es => exact absurd rfl (hset seq es)
  | hello => exact .next (State.betweenSteps_fabric (by split <;> rfl))
  | loadChunk seq => exact .next (State.command_fabric seq (by dsimp only; split_ifs <;> rfl))
  | step seq => exact .next (State.command_fabric seq rfl)
  | getOutputs seq => exact .next (State.command_fabric seq (by dsimp only; split_ifs <;> rfl))
  | quit seq | shutdown seq => exact .next (State.endingCommand_fabric seq rfl)
  | link seq edge => exact exec_link_fabric s seq edge
  | unlink seq edge => exact exec_unlink_fabric s seq edge
  | outputs | linkAck | error | unknownType => exact .next (State.betweenSteps_fabric rfl)
  | _ => cases hi

end Keep

/-! ### TICK, SET_INPUTS and APPLY -/

section Change

variable {s t : State}

theorem exec_tick_change {apply inputs : Prop} (h : exec .tick s = .next t) : FabricChange True apply inputs s t := by
  cases he : s.tickEnabled with
  | false =>
    obtain rfl := Host.Outcome.next.inj ((exec_tick_disabled he).symm.trans h)
    exact .of_fabric_eq rfl
  | true =>
    obtain rfl := Host.Outcome.next.inj ((exec_tick_enabled he).symm.trans h)
    rw [State.tickBody_frame]
    exact ⟨rfl, .inl rfl, .inl rfl, .inr (.inl trivial)⟩

theorem State.writeInputs_frame (s : State) (entries : List TlvEntry) :
    ∃ ins, entries.foldl (fun s t => s.writeInput t.name t.value) s = { s with ins := ins } := by
  induction entries generalizing s with
  | nil => exact ⟨s.ins, rfl⟩
  | cons entry entries ih =>
    obtain ⟨ins, hins⟩ := ih (s.writeInput entry.name entry.value)
    refine ⟨ins, hins.trans ?_⟩
    rw [State.writeInput_eq]

/-- SET_INPUTS writes input registers (R253). -/
theorem exec_setInputs_change {tick apply : Prop} {seq : BitVec 16} {es : List TlvEntry}
    (h : exec (.setInputs seq es) s = .next t) : FabricChange tick apply True s t := by
  obtain rfl := Host.Outcome.next.inj h
  rcases s.command_cases seq _ with hs | ⟨_, _, hs⟩ | ⟨_, hs⟩ <;> rw [hs]
  · exact .of_fabric_eq rfl
  · exact .of_fabric_eq rfl
  · split
    · exact .of_fabric_eq rfl
    · obtain ⟨ins, hins⟩ := s.writeInputs_frame es
      rw [hins]
      exact ⟨rfl, .inl rfl, .inr trivial, .inl ⟨rfl, rfl⟩⟩

/-- COMMIT loads the tables and starts the outputs and the tick count again from 0 (R252). -/
theorem State.commitTables_change {tick inputs : Prop} (s : State) (ts : List (PerDir Table)) :
    FabricChange tick True inputs s (s.commitTables ts) :=
  ⟨rfl, .inr trivial, .inl rfl, .inr (.inr ⟨trivial, List.map_const' .., rfl⟩)⟩

theorem State.applyBitstream_change {tick inputs : Prop} (s : State) (seq : BitVec 16) (b : Bytes) :
    FabricChange tick True inputs s (s.applyBitstream seq b) := by
  unfold State.applyBitstream
  split
  · exact s.commitTables_change _
  · exact .of_fabric_eq rfl

/-- APPLY refuses its upload or commits it (R248). -/
theorem exec_apply_change {tick inputs : Prop} {seq : BitVec 16} (h : exec (.apply seq) s = .next t) :
    FabricChange tick True inputs s t := by
  obtain rfl := Host.Outcome.next.inj h
  rcases s.command_cases seq _ with hs | ⟨_, _, hs⟩ | ⟨_, hs⟩ <;> rw [hs]
  · exact .of_fabric_eq rfl
  · exact .of_fabric_eq rfl
  · split
    · exact .of_fabric_eq rfl
    · split
      · exact { State.applyBitstream_change { s with upload := none } seq _ with }
      · exact .of_fabric_eq rfl

/-- What a command of the control port changes of the fabric, by its constructor. -/
theorem exec_control_change {i : Instr} (hi : Instr.isControl i = true) (h : exec i s = .next t) :
    FabricChange False (∃ seq, i = .apply seq) (∃ seq es, i = .setInputs seq es) s t := by
  by_cases happly : ∃ seq, i = .apply seq
  · obtain ⟨seq, rfl⟩ := happly
    exact (exec_apply_change h).imp id (fun _ => ⟨seq, rfl⟩) id
  by_cases hset : ∃ seq es, i = .setInputs seq es
  · obtain ⟨seq, es, rfl⟩ := hset
    exact (exec_setInputs_change h).imp id id fun _ => ⟨seq, es, rfl⟩
  · exact .of_fabric_eq (exec_control_fabric s hi (fun seq hs => happly ⟨seq, hs⟩) (fun seq es hs => hset ⟨seq, es, hs⟩) t h)

end Change

/-! ### Agent steps -/

/-- CONTROL_STEP runs the command its head frame decodes to (R241). -/
theorem exec_controlStep_instr {s : State} {frame : Bytes} {rest : List Bytes} {i : Instr} (he : s.controlEnabled = true)
    (hq : s.q = frame :: rest) (hd : decodeControl frame = .instr i) :
    exec .controlStep s = exec i { s with q := rest } := by
  rw [exec, execControlStep, if_pos he]
  simp only [hq, hd]
  exact executeFrame_eq_exec (decodeControl_isControl hd) _

theorem exec_controlStep_rejected {s : State} {frame : Bytes} {rest : List Bytes} {why : DecodeError}
    (he : s.controlEnabled = true) (hq : s.q = frame :: rest) (hd : decodeControl frame = .rejected why) :
    exec .controlStep s = .next (State.rejectFrame { s with q := rest } why) := by
  rw [exec, execControlStep, if_pos he]
  simp only [hq, hd]

theorem exec_controlStep_disabled {s : State} (he : s.controlEnabled = false) : exec .controlStep s = .next s := by
  rw [exec, execControlStep, if_neg (Bool.eq_false_iff.1 he)]

/-- What CONTROL_STEP can do: nothing, the command its head frame decodes to, or the rejection of that frame (R241). -/
theorem exec_controlStep_cases (s : State) :
    exec .controlStep s = .next s
      ∨ (∃ frame rest i, s.q = frame :: rest ∧ decodeControl frame = .instr i ∧
          exec .controlStep s = exec i { s with q := rest })
      ∨ (∃ frame rest why, s.q = frame :: rest ∧ decodeControl frame = .rejected why ∧
          exec .controlStep s = .next (State.rejectFrame { s with q := rest } why)) := by
  cases he : s.controlEnabled with
  | false => exact .inl (exec_controlStep_disabled he)
  | true =>
    cases hq : s.q with
    | nil => simp [State.controlEnabled, hq] at he
    | cons frame rest =>
      cases hd : decodeControl frame with
      | instr i => exact .inr (.inl ⟨frame, rest, i, rfl, hd, exec_controlStep_instr he hq hd⟩)
      | rejected why => exact .inr (.inr ⟨frame, rest, why, rfl, hd, exec_controlStep_rejected he hq hd⟩)

/-- CONTROL_STEP changes the fabric only by an APPLY or a SET_INPUTS at the head of the queue. -/
theorem exec_controlStep_change {s t : State} (h : exec .controlStep s = .next t) :
    FabricChange False (∃ seq, s.headIs (.apply seq)) (∃ seq es, s.headIs (.setInputs seq es)) s t := by
  rcases exec_controlStep_cases s with hx | ⟨frame, rest, i, hq, hd, hx⟩ | ⟨_, rest, why, _, _, hx⟩ <;> rw [hx] at h
  · obtain rfl := Host.Outcome.next.inj h
    exact .of_fabric_eq rfl
  · have hhead : s.headIs i := ⟨frame, rest, hq, hd⟩
    have hchange := exec_control_change (decodeControl_isControl hd) h
    refine FabricChange.imp { hchange with } id ?_ ?_
    · rintro ⟨seq, rfl⟩
      exact ⟨seq, hhead⟩
    · rintro ⟨seq, es, rfl⟩
      exact ⟨seq, es, hhead⟩
  · obtain rfl := Host.Outcome.next.inj h
    exact .of_fabric_eq (State.rejectFrame_fabric { s with q := rest } why)

/-- What an agent step other than a launch changes of the fabric. -/
theorem perform_change {ev : Event} {s t : State} (hev : ∀ p g, ev ≠ .launch p g) (h : perform ev s = .next t) :
    FabricChange (ev = .tick) (ev = .control ∧ ∃ seq, s.headIs (.apply seq))
      (ev = .control ∧ ∃ seq es, s.headIs (.setInputs seq es)) s t := by
  cases ev with
  | control => exact (exec_controlStep_change h).imp False.elim (⟨rfl, ·⟩) (⟨rfl, ·⟩)
  | tick => exact (exec_tick_change h).imp (fun _ => rfl) id id
  | deliver frame => exact .of_fabric_eq (KeepsFabric.next (t := { s with q := s.q ++ [frame] }) rfl t h)
  | seam e frame => exact .of_fabric_eq (KeepsFabric.next (s.receiveParsed_fabric e _) t h)
  | stall => exact .of_fabric_eq (exec_stall_fabric s t h)
  | substitute e => exact .of_fabric_eq (exec_substituteHeld_fabric s e t h)
  | resend e epoch phase => exact .of_fabric_eq (exec_resend_fabric s e epoch phase t h)
  | launch p g => exact absurd rfl (hev p g)

/-- Settles O57: `perform_change`, with the configuration written out field by field. -/
theorem onlyTicksAndAppliesChangeTheFabric : Obligations.OnlyTicksAndAppliesChangeTheFabric := by
  intro ev s t hev h
  obtain ⟨hconfig, hlut, hins, houtputs⟩ := perform_change hev h
  obtain ⟨hparams, hsrc, hinDecl, houtDecl, hlatency⟩ := State.config_eq_iff.1 hconfig
  exact ⟨hparams, hsrc, hinDecl, houtDecl, hlatency, hlut, hins, by simpa only [and_assoc] using houtputs⟩

end Sys2Proof.Machine
end

section
/-!
PROOFS. The decoder reads back what the encoder writes (30_encoding.md R101, R110 to R131): fields of a byte string, TLV lists both
ways, control frames and the payload of each type, seam frames, bitstreams, and at the end every instruction that has an encoding.
-/

namespace Sys2Proof

/-! ### Fields of a byte string -/

@[simp] theorem memRead_cons_succ (b : Byte) (bs : Bytes) (off n : Nat) :
    memRead (b :: bs) (off + 1) n = memRead bs off n := rfl

@[simp] theorem memRead_byte (b : Byte) (bs : Bytes) : memRead (b :: bs) 0 1 = b.toNat := rfl

/-- A field that stands behind other bytes. -/
@[simp] theorem memRead_append_of_le {xs : Bytes} (ys : Bytes) {off : Nat} (n : Nat) (h : xs.length ≤ off) :
    memRead (xs ++ ys) off n = memRead ys (off - xs.length) n := by
  unfold memRead
  rw [List.drop_append, List.drop_eq_nil_of_le h, List.nil_append]

/-- A number at the front is read back where it fits its field. -/
theorem memRead_leBytes_of_lt {n v : Nat} (zs : Bytes) (h : v < 256 ^ n) : memRead (leBytes n v ++ zs) 0 n = v :=
  (memRead_leBytes [] zs v rfl).trans (Nat.mod_eq_of_lt h)

/-- A word at the front is read back where its field is wide enough. -/
@[simp] theorem memRead_word {n w : Nat} (x : BitVec w) (zs : Bytes) (h : w ≤ 8 * n) :
    memRead (leBytes n x.toNat ++ zs) 0 n = x.toNat := by
  refine memRead_leBytes_of_lt zs (x.isLt.trans_le ?_)
  rw [show 256 = 2 ^ 8 from rfl, ← pow_mul]
  exact Nat.pow_le_pow_right (by decide) h

@[simp] theorem memRead_word_last {n w : Nat} (x : BitVec w) (h : w ≤ 8 * n) : memRead (leBytes n x.toNat) 0 n = x.toNat := by
  simpa using memRead_word x [] h

/-- A field inside the string, written again, is the bytes it was read from. -/
theorem leBytes_memRead {buf : Bytes} {off n : Nat} (h : off + n ≤ buf.length) :
    leBytes n (memRead buf off n) = (buf.drop off).take n := by
  have hlength : ((buf.drop off).take n).length = n := by
    rw [List.length_take, List.length_drop]
    omega
  have hbytes := leBytes_leValue ((buf.drop off).take n)
  rwa [hlength] at hbytes

/-- The bytes of a word, least significant first (00_scope.md R10). -/
theorem leBytes_eq_map (n v : Nat) : leBytes n v = (List.range n).map fun i => BitVec.ofNat 8 (v / 256 ^ i) := by
  induction n generalizing v with
  | zero => rfl
  | succ n ih =>
    rw [leBytes, ih, List.range_succ_eq_map, List.map_cons, List.map_map, pow_zero, Nat.div_one]
    congr 1
    refine List.map_congr_left fun i _ => ?_
    rw [Nat.div_div_eq_div_mul, ← pow_succ', Function.comp_apply]

theorem leBytes_word {w : Nat} (n : Nat) (x : BitVec w) :
    leBytes n x.toNat = (List.range n).map fun i => (x >>> (8 * i)).setWidth 8 := by
  rw [leBytes_eq_map]
  refine List.map_congr_left fun i _ => ?_
  rw [← BitVec.ofNat_toNat, BitVec.toNat_ushiftRight, Nat.shiftRight_eq_div_pow, pow_mul,
    show 2 ^ 8 = 256 from rfl]

/-! ### TLV lists (R113) -/

/-- What R113 asks of the names of a list: 1 to 255 bytes each. -/
def TlvNamesFit (es : List TlvEntry) : Prop := ∀ t ∈ es, 1 ≤ t.name.length ∧ t.name.length ≤ 255

theorem tlvNamesFit_nil : TlvNamesFit [] := nofun

theorem tlvNamesFit_cons {t : TlvEntry} {es : List TlvEntry} :
    TlvNamesFit (t :: es) ↔ (1 ≤ t.name.length ∧ t.name.length ≤ 255) ∧ TlvNamesFit es := List.forall_mem_cons

theorem encodeTlv_cons (t : TlvEntry) (es : List TlvEntry) : encodeTlv (t :: es) = encodeTlvEntry t ++ encodeTlv es := rfl

theorem encodeTlv_eq_flatMap (es : List TlvEntry) : encodeTlv es = es.flatMap fun (t : TlvEntry) =>
    BitVec.ofNat 8 t.name.length :: (t.name ++ (List.range 8).map fun i => (t.value >>> (8 * i)).setWidth 8) := by
  refine List.flatMap_congr fun t _ => ?_
  rw [encodeTlvEntry, leBytes_word]

/-- An entry at the front is taken off the payload. -/
theorem decodeTlvFuel_encodeTlvEntry (fuel : Nat) {t : TlvEntry} (rest : Bytes)
    (ht : 1 ≤ t.name.length ∧ t.name.length ≤ 255) :
    decodeTlvFuel (fuel + 1) (encodeTlvEntry t ++ rest) = (decodeTlvFuel fuel rest).map (t :: ·) := by
  obtain ⟨name, value⟩ := t
  obtain ⟨hpos, hmax⟩ : 1 ≤ name.length ∧ name.length ≤ 255 := ht
  have hlen : (BitVec.ofNat 8 name.length).toNat = name.length := Nat.mod_eq_of_lt (by omega)
  have hzero : BitVec.ofNat 8 name.length ≠ 0 := fun h => by
    rw [h] at hlen
    exact absurd hpos (by simp [← hlen])
  have hsplit : encodeTlvEntry ⟨name, value⟩ ++ rest =
      BitVec.ofNat 8 name.length :: (name ++ (leBytes 8 value.toNat ++ rest)) := by
    simp [encodeTlvEntry]
  rw [hsplit, decodeTlvFuel, if_neg hzero, if_neg (by simp [hlen]), hlen]
  simp [← List.drop_drop]

/-- The front of a payload that is long enough for its first length byte is an entry. -/
theorem cons_eq_encodeTlvEntry {len : Byte} {rest : Bytes} (h : len.toNat + 8 ≤ rest.length) :
    len :: rest = encodeTlvEntry ⟨rest.take len.toNat, BitVec.ofNat 64 (memRead rest len.toNat 8)⟩
      ++ rest.drop (len.toNat + 8) := by
  have hvalue : (BitVec.ofNat 64 (memRead rest len.toNat 8)).toNat = memRead rest len.toNat 8 :=
    Nat.mod_eq_of_lt (memRead_lt rest len.toNat 8)
  have hname : (rest.take len.toNat).length = len.toNat := List.length_take_of_le (by omega)
  rw [encodeTlvEntry, hvalue, hname, leBytes_memRead h, BitVec.ofNat_toNat, BitVec.setWidth_eq, List.cons_append,
    List.append_assoc, ← List.drop_drop, List.take_append_drop, List.take_append_drop]

theorem decodeTlvFuel_encodeTlv {es : List TlvEntry} (h : TlvNamesFit es) {fuel : Nat} (hfuel : es.length ≤ fuel) :
    decodeTlvFuel fuel (encodeTlv es) = some es := by
  induction es generalizing fuel with
  | nil => cases fuel <;> rfl
  | cons t es ih =>
    obtain ⟨ht, hes⟩ := tlvNamesFit_cons.1 h
    obtain ⟨fuel, rfl⟩ := Nat.exists_eq_add_of_le' hfuel
    rw [encodeTlv_cons, List.length_cons, ← Nat.add_assoc, decodeTlvFuel_encodeTlvEntry _ _ ht, ih hes (Nat.le_add_left ..)]
    rfl

theorem encodeTlv_of_decodeTlvFuel {fuel : Nat} {p : Bytes} {es : List TlvEntry} (h : decodeTlvFuel fuel p = some es) :
    TlvNamesFit es ∧ p = encodeTlv es := by
  induction fuel, p using decodeTlvFuel.induct generalizing es with
  | case1 fuel =>
    obtain rfl : [] = es := by simpa [decodeTlvFuel] using h
    exact ⟨tlvNamesFit_nil, rfl⟩
  | case2 => simp [decodeTlvFuel] at h
  | case3 fuel rest => simp [decodeTlvFuel] at h
  | case4 fuel len rest hzero hshort => simp [decodeTlvFuel, hshort] at h
  | case5 fuel len rest hzero hlong ih =>
    rw [decodeTlvFuel, if_neg hzero, if_neg hlong, Option.map_eq_some_iff] at h
    obtain ⟨es, htail, rfl⟩ := h
    obtain ⟨hes, hrest⟩ := ih htail
    have hpos : len.toNat ≠ 0 := fun h0 => hzero (BitVec.eq_of_toNat_eq h0)
    have hbyte := len.isLt
    refine ⟨tlvNamesFit_cons.2 ⟨?_, hes⟩, ?_⟩
    · rw [List.length_take_of_le (by omega)]
      omega
    · rw [encodeTlv_cons, ← hrest]
      exact cons_eq_encodeTlvEntry (by omega)

/-- A list has no more entries than bytes, so the fuel of `decodeTlv` is enough. -/
theorem length_le_tlvLength (es : List TlvEntry) : es.length ≤ Laws.tlvLength es := by
  simpa [Laws.tlvLength] using List.length_le_sum_of_one_le (es.map fun t => 9 + t.name.length) (by simp; omega)

/-- A payload is a TLV list exactly where it is its entries back to back (R113). -/
theorem decodeTlv_eq_some_iff {p : Bytes} {es : List TlvEntry} :
    decodeTlv p = some es ↔ TlvNamesFit es ∧ p = encodeTlv es := by
  refine ⟨encodeTlv_of_decodeTlvFuel, ?_⟩
  rintro ⟨h, rfl⟩
  exact decodeTlvFuel_encodeTlv h ((length_le_tlvLength es).trans_eq (Laws.encodeTlv_length es).symm)

/-- Settles O47: `decodeTlv_eq_some_iff`, with the bytes of an entry written out. -/
theorem tlvListsReadBack : Obligations.TlvListsReadBack := by
  intro p es
  rw [decodeTlv_eq_some_iff, encodeTlv_eq_flatMap]
  rfl

theorem entriesOk_iff {es : List TlvEntry} :
    entriesOk es = true ↔ TlvNamesFit es ∧ (encodeTlv es).length ≤ Config.maxPayload := by
  rw [Laws.encodeTlv_length]
  simp [entriesOk, nameOk, TlvNamesFit, Laws.tlvLength]

/-! ### Control frames (R110 to R112) -/

section ControlFrame

variable (version type : Byte) (seq : BitVec 16) (p : Bytes)

/-- What the CRC of a control frame covers in front of the payload: bytes 4 to 10. -/
def controlCovered : Bytes := version :: type :: 0 :: (leBytes 2 seq.toNat ++ leBytes 2 p.length)

/-- The frame field by field, in the order of R110. -/
theorem controlFrame_eq : controlFrame version type seq p =
    0x42 :: 0x47 :: 0x43 :: 0x46 :: version :: type :: 0 :: (leBytes 2 seq.toNat ++ (leBytes 2 p.length
      ++ (leBytes 4 (crc32 (controlCovered version type seq p ++ p)).toNat ++ p))) := rfl

theorem frameVersion_controlFrame : frameVersion (controlFrame version type seq p) = version := rfl

theorem frameType_controlFrame : frameType (controlFrame version type seq p) = type := rfl

theorem frameSeq_controlFrame : frameSeq (controlFrame version type seq p) = seq := by
  simp [frameSeq, controlFrame_eq]

theorem framePayload_controlFrame : framePayload (controlFrame version type seq p) = p := rfl

theorem controlFrame_covered : ((controlFrame version type seq p).drop 4).take 7 = controlCovered version type seq p := rfl

variable {p}

/-- A frame whose payload fits the `length` field is FRAMED (43_host_commands.md R241). -/
theorem framed_controlFrame (hp : p.length ≤ Config.maxPayload) : framed (controlFrame version type seq p) = true := by
  have hlength : memRead (controlFrame version type seq p) 9 2 = p.length := by
    simp [controlFrame_eq, memRead_leBytes_of_lt _ (show p.length < 256 ^ 2 from Nat.lt_succ_of_le hp)]
  have hcrc : memRead (controlFrame version type seq p) 11 4 = (crc32 (controlCovered version type seq p ++ p)).toNat := by
    simp [controlFrame_eq]
  have hmagic : (controlFrame version type seq p).take 4 = Config.controlMagic := rfl
  have hpayload : (controlFrame version type seq p).drop 15 = p := rfl
  simp [framed, Laws.controlFrame_length, hlength, hcrc, hmagic, hpayload, controlFrame_covered]

theorem decodeControl_controlFrame (hp : p.length ≤ Config.maxPayload) :
    decodeControl (controlFrame Config.protoVersion type seq p) = decodePayload seq type p := by
  rw [decodeControl, if_pos (framed_controlFrame _ _ _ hp), if_pos (frameVersion_controlFrame ..), frameSeq_controlFrame,
    frameType_controlFrame, framePayload_controlFrame]

end ControlFrame

/-! ### The payload of each type (R114 to R126) -/

section Payload

variable (seq : BitVec 16)

theorem decodePayload_hello (w h : BitVec 16) (v : Byte) (f : BitVec 32) :
    decodePayload seq 0x01 (leBytes 2 w.toNat ++ leBytes 2 h.toNat ++ leBytes 1 v.toNat ++ leBytes 4 f.toNat) =
      .instr (.hello seq w h v f) := by
  simp [decodePayload]

theorem decodePayload_loadChunk (sid total off : BitVec 32) {chunk : Bytes} (h : 16 + chunk.length ≤ Config.maxPayload) :
    decodePayload seq 0x02 (leBytes 4 sid.toNat ++ leBytes 4 total.toNat ++ leBytes 4 off.toNat ++ leBytes 4 chunk.length
      ++ chunk) = .instr (.loadChunk seq sid total off chunk) := by
  rw [Config.maxPayload] at h
  have hlength : chunk.length < 256 ^ 4 := by omega
  simp [decodePayload, memRead_leBytes_of_lt _ hlength]
  rw [if_pos (by omega)]
  rfl

theorem decodePayload_step (ticks : BitVec 32) : decodePayload seq 0x04 (leBytes 4 ticks.toNat) = .instr (.step seq ticks) := by
  simp [decodePayload]

theorem decodePayload_setInputs {es : List TlvEntry} (hne : es ≠ []) (h : TlvNamesFit es) :
    decodePayload seq 0x05 (encodeTlv es) = .instr (.setInputs seq es) := by
  obtain ⟨t, ts, rfl⟩ := List.exists_cons_of_ne_nil hne
  simp [decodePayload, decodeTlv_eq_some_iff.2 ⟨h, rfl⟩]

theorem decodePayload_getOutputs {es : List TlvEntry} (h : TlvNamesFit es) :
    decodePayload seq 0x06 (encodeTlv es) = .instr (.getOutputs seq es) := by
  simp [decodePayload, decodeTlv_eq_some_iff.2 ⟨h, rfl⟩]

/-- A type outside the opcode map is answered before its payload is looked at (R127). -/
theorem decodePayload_unknownType {type : Byte} (p : Bytes) (h : knownType type = false) :
    decodePayload seq type p = .instr (.unknownType seq type p) := by
  unfold decodePayload
  dsimp only
  split
  case h_14 => rfl
  all_goals simp_all [knownType]

end Payload

/-! ### Seam frames (R130, R131) -/

/-- The three bytes of a lane entry (R131). -/
def laneBytes (l : Lane) : Bytes := leBytes 2 l.lane.toNat ++ [l.value.setWidth 8]

theorem seamBody_eq (f : SeamFrame) : seamBody f =
    1 :: f.edge :: f.phase :: 0 :: (leBytes 4 f.epoch.toNat ++ (leBytes 2 f.lanes.length ++ f.lanes.flatMap laneBytes)) := rfl

theorem decodeLanes_laneBytes (lanes : List Lane) (rest : Bytes) :
    decodeLanes lanes.length (lanes.flatMap laneBytes ++ rest) = lanes := by
  induction lanes with
  | nil => rfl
  | cons l lanes ih =>
    have hread : memRead ((l :: lanes).flatMap laneBytes ++ rest) 0 2 = l.lane.toNat := by simp [laneBytes]
    have hvalue : ((l :: lanes).flatMap laneBytes ++ rest).getD 2 0 = l.value.setWidth 8 := rfl
    have hdrop : ((l :: lanes).flatMap laneBytes ++ rest).drop 3 = lanes.flatMap laneBytes ++ rest := rfl
    rw [List.length_cons, decodeLanes, hread, hvalue, hdrop, ih]
    simp

theorem length_flatMap_laneBytes (lanes : List Lane) : (lanes.flatMap laneBytes).length = 3 * lanes.length := by
  simp [laneBytes, List.length_flatMap, Nat.mul_comm]

theorem seamBody_length (f : SeamFrame) : (seamBody f).length = 10 + 3 * f.lanes.length := by
  simp only [seamBody_eq, List.length_cons, List.length_append, leBytes_length, length_flatMap_laneBytes]
  omega

/-- The frame field by field, in the order of R130. -/
theorem encodeSeam_eq (f : SeamFrame) : encodeSeam f =
    0x42 :: 0x47 :: 0x53 :: 0x46 :: (seamBody f ++ leBytes 4 (crc32 (seamBody f)).toNat) := rfl

theorem decodeSeam_encodeSeam {f : SeamFrame} (hf : f.lanes.length < 65536) : decodeSeam (encodeSeam f) = some f := by
  have hn : memRead (encodeSeam f) 12 2 = f.lanes.length := by
    simp [encodeSeam_eq, seamBody_eq, memRead_leBytes_of_lt _ (show f.lanes.length < 256 ^ 2 from hf)]
  have hepoch : memRead (encodeSeam f) 8 4 = f.epoch.toNat := by simp [encodeSeam_eq, seamBody_eq]
  have hbody : ((encodeSeam f).drop 4).take (10 + 3 * f.lanes.length) = seamBody f :=
    List.take_left' (seamBody_length f)
  have hcrc : memRead (encodeSeam f) (14 + 3 * f.lanes.length) 4 = (crc32 (seamBody f)).toNat := by
    have hfront : (Config.seamMagic ++ seamBody f).length = 14 + 3 * f.lanes.length := by
      rw [List.length_append, seamBody_length, ← Nat.add_assoc]
      rfl
    rw [encodeSeam, memRead_append_of_le _ _ hfront.le, hfront, Nat.sub_self]
    exact memRead_word_last _ (by decide)
  have hlanes : decodeLanes f.lanes.length ((encodeSeam f).drop 14) = f.lanes := decodeLanes_laneBytes f.lanes _
  have hlength := Laws.encodeSeam_length f
  have hmagic : (encodeSeam f).take 4 = Config.seamMagic := rfl
  have hversion : memRead (encodeSeam f) 4 1 = 1 := rfl
  have hedge : (encodeSeam f).getD 5 0 = f.edge := rfl
  have hphase : (encodeSeam f).getD 6 0 = f.phase := rfl
  unfold decodeSeam
  dsimp only
  rw [hn, hbody, if_pos ⟨by omega, hmagic, hlength, hcrc, hversion⟩, hedge, hphase, hepoch, hlanes, BitVec.ofNat_toNat,
    BitVec.setWidth_eq]

/-! ### Bitstreams (R101) -/

theorem decodeBitstream_encodeBitstream (h : BitstreamHeader) (p : Bytes) :
    decodeBitstream (encodeBitstream h p) = some (h, p) := by
  have hfields : headerFields (encodeBitstream h p) = h := by
    simp [headerFields, encodeBitstream, Config.bitstreamMagic]
  have hmagic : (encodeBitstream h p).take 4 = Config.bitstreamMagic := rfl
  have hversion : memRead (encodeBitstream h p) 4 2 = 1 := rfl
  have hsize : memRead (encodeBitstream h p) 6 2 = 24 := rfl
  have hpayload : (encodeBitstream h p).drop 24 = p := rfl
  rw [decodeBitstream, if_pos ⟨by simp [Laws.encodeBitstream_length], hmagic, hversion, hsize⟩, hfields, hpayload]

/-! ### Every instruction that has an encoding -/

/-- The decoder of its port reads `i` from the encoding of `i`, where there is one. -/
def ReadsBack (i : Instr) : Prop := ∀ enc, encode i = some enc → decode enc.port enc.bytes = .instr i

namespace ReadsBack

variable {i : Instr}

theorem of_internal (h : encode i = none) : ReadsBack i := fun _ henc => nomatch h.symm.trans henc

theorem of_encode {enc : Encoded} (h : encode i = some enc) (hd : decode enc.port enc.bytes = .instr i) : ReadsBack i := by
  intro enc' henc
  obtain rfl := Option.some.inj (h.symm.trans henc)
  exact hd

theorem of_control {type : Byte} {seq : BitVec 16} {p : Bytes} (h : encode i = encodedControl type seq p)
    (hp : p.length ≤ Config.maxPayload) (hd : decodePayload seq type p = .instr i) : ReadsBack i :=
  of_encode h ((decodeControl_controlFrame type seq hp).trans hd)

end ReadsBack

theorem payloadOk_iff {p : Bytes} : payloadOk p = true ↔ p.length ≤ Config.maxPayload := decide_eq_true_iff

/-- What `Instr.wf` bounds is what the formats can carry: payloads that fit the `length` field, names of 1 to 255 bytes, lane counts
of two bytes. -/
theorem readsBack_of_wf {i : Instr} (hwf : i.wf = true) : ReadsBack i := by
  cases i with
  | hello seq w h v f => exact .of_control rfl (by simp [Config.maxPayload]) (decodePayload_hello seq w h v f)
  | loadChunk seq sid total off chunk =>
    have hchunk : 16 + chunk.length ≤ Config.maxPayload := of_decide_eq_true hwf
    refine .of_control rfl ?_ (decodePayload_loadChunk seq sid total off hchunk)
    simpa [← Nat.add_assoc] using hchunk
  | step seq ticks => exact .of_control rfl (by simp [Config.maxPayload]) (decodePayload_step seq ticks)
  | setInputs seq es =>
    obtain ⟨hne, hes⟩ := Bool.and_eq_true_iff.1 hwf
    obtain ⟨hnames, hlength⟩ := entriesOk_iff.1 hes
    exact .of_control rfl hlength (decodePayload_setInputs seq (by simpa using hne) hnames)
  | getOutputs seq es =>
    obtain ⟨hnames, hlength⟩ := entriesOk_iff.1 hwf
    exact .of_control rfl hlength (decodePayload_getOutputs seq hnames)
  | apply | quit | shutdown | link | unlink => exact .of_control rfl (by simp [Config.maxPayload]) rfl
  | outputs seq p | linkAck seq p | error seq p => exact .of_control rfl (payloadOk_iff.1 hwf) rfl
  | unknownType seq type p =>
    obtain ⟨htype, hp⟩ := Bool.and_eq_true_iff.1 hwf
    exact .of_control rfl (payloadOk_iff.1 hp) (decodePayload_unknownType seq p (by simpa using htype))
  | seamFrame d f => exact .of_encode rfl (by simp [decode, decodeSeam_encodeSeam (of_decide_eq_true hwf)])
  | bitstreamHeader seq h p => exact .of_encode rfl (by simp [decode, decodeBitstream_encodeBitstream])
  | evalLut | resolve | index | evalCell | tick | cycle | emitFrame | resend | seamReceive | stall | seamRead
  | substituteHeld | controlStep | commit | reset => exact .of_internal rfl

/-- Settles O59: `readsBack_of_wf`. -/
theorem decodeEncodeAgree : Obligations.DecodeEncodeAgree := fun _ enc hwf => readsBack_of_wf hwf enc

end Sys2Proof
end

section
/-!
PROOFS. A seam frame at a port is the SEAM_RECEIVE of its bytes, and the frame that is expected there fills the half of its phase
(42_seam_barrier.md R210, R216).
-/

namespace Sys2Proof.Machine

/-! ### Filling a half -/

/-- The half of parity `q` after `v` is written to lane `k` of it (R216). -/
theorem EdgeState.halfList_setHalf (es : EdgeState) (q k : Nat) (v : Nibble) :
    (es.setHalf q k v).halfList q = (es.halfList q).set k v := by
  unfold EdgeState.setHalf EdgeState.halfList
  split <;> rfl

/-- A list of lane positions after the values of `lanes` are written to it, in their order. -/
def writeLanes (xs : List Nibble) (lanes : List Lane) : List Nibble :=
  lanes.foldl (fun xs l => xs.set l.lane.toNat l.value) xs

theorem EdgeState.halfList_accept (es : EdgeState) (f : SeamFrame) :
    (es.accept f).halfList f.phase.toNat = writeLanes (es.halfList f.phase.toNat) f.lanes := by
  have hfill : ∀ (lanes : List Lane) (es : EdgeState),
      (lanes.foldl (fun es l => es.setHalf f.phase.toNat l.lane.toNat l.value) es).halfList f.phase.toNat =
        writeLanes (es.halfList f.phase.toNat) lanes := by
    intro lanes
    induction lanes with
    | nil => exact fun _ => rfl
    | cons l lanes ih =>
      intro es
      rw [List.foldl_cons, ih, EdgeState.halfList_setHalf]
      rfl
  exact hfill f.lanes es

theorem writeLanes_getD_of_notMem {xs : List Nibble} {lanes : List Lane} {k : Nat}
    (h : k ∉ lanes.map (fun l => l.lane.toNat)) : (writeLanes xs lanes).getD k 0 = xs.getD k 0 := by
  induction lanes generalizing xs with
  | nil => rfl
  | cons l lanes ih =>
    obtain ⟨hne, hrest⟩ := not_or.1 (List.mem_cons.not.1 h)
    refine (ih hrest).trans ?_
    rw [List.getD_eq_getElem?_getD, List.getElem?_set_ne (Ne.symm hne), List.getD_eq_getElem?_getD]

/-- Lanes that are distinct positions of the list are all there afterwards. -/
theorem writeLanes_getD_of_mem {xs : List Nibble} {lanes : List Lane} (hnodup : (lanes.map fun l => l.lane.toNat).Nodup)
    (hbound : ∀ l ∈ lanes, l.lane.toNat < xs.length) {l : Lane} (hl : l ∈ lanes) :
    (writeLanes xs lanes).getD l.lane.toNat 0 = l.value := by
  induction lanes generalizing xs with
  | nil => cases hl
  | cons l' lanes ih =>
    obtain ⟨hfirst, hrest⟩ := List.nodup_cons.1 hnodup
    rcases List.mem_cons.1 hl with rfl | hl
    · refine (writeLanes_getD_of_notMem hfirst).trans ?_
      have hin : l.lane.toNat < xs.length := hbound l List.mem_cons_self
      simp [hin]
    · refine ih hrest (fun m hm => ?_) hl
      rw [List.length_set]
      exact hbound m (List.mem_cons_of_mem _ hm)

theorem recvLanes_nodup (p : Params) (e : Dir) (q : Nat) : (recvLanes p e q).Nodup := List.nodup_range.filter _

theorem lt_laneCount_of_mem_recvLanes {p : Params} {e : Dir} {q k : Nat} (h : k ∈ recvLanes p e q) : k < laneCount p e :=
  List.mem_range.1 (List.mem_of_mem_filter h)

/-- An accepted frame that carries the lanes of its parity leaves each lane's value in its half (R216). -/
theorem EdgeState.half_accept {p : Params} {e : Dir} {es : EdgeState} {f : SeamFrame}
    (h0 : es.half0.length = laneCount p e) (h1 : es.half1.length = laneCount p e)
    (hlanes : f.lanes.map (fun l => l.lane.toNat) = recvLanes p e f.phase.toNat) {l : Lane} (hl : l ∈ f.lanes) :
    (es.accept f).half f.phase.toNat l.lane.toNat = l.value := by
  have hlength : (es.halfList f.phase.toNat).length = laneCount p e := by
    unfold EdgeState.halfList
    split
    · exact h0
    · exact h1
  rw [EdgeState.half, EdgeState.halfList_accept]
  refine writeLanes_getD_of_mem (hlanes ▸ recvLanes_nodup p e _) (fun m hm => ?_) hl
  rw [hlength]
  exact lt_laneCount_of_mem_recvLanes (hlanes ▸ List.mem_map_of_mem hm)

/-! ### The expected frame -/

variable {s : State} {e : Dir} {f : SeamFrame}

/-- A frame with the facing edge, the expected epoch and phase, and the lanes of its parity passes every check of R210. -/
theorem State.frameVerdict_expected (hedge : f.edge.toNat = e.opp.code) (hphase : f.phase.toNat = (s.edge e).rxNext % 2)
    (hepoch : f.epoch = BitVec.ofNat 32 ((s.edge e).rxNext / 2))
    (hlanes : f.lanes.map (fun l => l.lane.toNat) = recvLanes s.params e f.phase.toNat) :
    s.frameVerdict e f = none := by
  have hfits : frameMisfits s.params e f = false := by
    have hbit : f.phase.toNat ≤ 1 := by omega
    simp [frameMisfits, hedge, hlanes, hbit]
  have hnew : ¬(0 < (s.edge e).rxNext ∧ f.epoch = BitVec.ofNat 32 (((s.edge e).rxNext - 1) / 2) ∧
      f.phase.toNat = ((s.edge e).rxNext - 1) % 2) := by
    rintro ⟨_, _, hbefore⟩
    omega
  unfold State.frameVerdict
  dsimp only
  rw [if_neg (Bool.eq_false_iff.1 hfits), if_neg hnew, if_neg (not_not.2 hepoch), if_neg (not_not.2 hphase)]

theorem State.receiveParsed_accepted (hh : s.halted = false) (hl : (s.edge e).linked = true)
    (hv : s.frameVerdict e f = none) : s.receiveParsed e (some f) = s.acceptFrame e f := by
  simp [State.receiveParsed, hh, hl, hv]

theorem State.acceptFrame_edge_self (s : State) (e : Dir) (f : SeamFrame) :
    (s.acceptFrame e f).edge e = (s.edge e).accept f := by
  rw [State.acceptFrame_frame]
  exact PerDir.get_set_self ..

theorem exec_seamFrame (s : State) (port : Dir) (f : SeamFrame) :
    exec (.seamFrame port f) s = .next (s.receiveParsed port (some f)) := rfl

theorem exec_seamReceive (s : State) (e : Dir) (bytes : Bytes) :
    exec (.seamReceive e bytes) s = .next (s.receiveParsed e (decodeSeam bytes)) := rfl

/-- Settles O37: the bytes of a frame are read as the frame, and the expected frame is accepted. -/
theorem seamFrameIsReceivedFromItsBytes : Obligations.SeamFrameIsReceivedFromItsBytes := by
  intro s port f hf
  refine ⟨_, exec_seamFrame s port f, by rw [exec_seamReceive, decodeSeam_encodeSeam hf], ?_⟩
  intro hh hl h0 h1 hedge hphase hepoch hlanes
  rw [State.receiveParsed_accepted hh hl (State.frameVerdict_expected hedge hphase hepoch hlanes),
    State.acceptFrame_edge_self]
  exact ⟨rfl, fun l hmem => EdgeState.half_accept h0 h1 hlanes hmem⟩

end Sys2Proof.Machine
end

section
/-!
PROOFS. The LUT family (40_lut_eval.md R140 to R155): the value EVAL_LUT, RESOLVE and INDEX return, the one entry EVAL_CELL writes,
and the table of a function of the index, of which the forwarding tables are four.
-/

namespace Sys2Proof.Machine

/-! ### EVAL_LUT, RESOLVE and INDEX -/

/-- Settles O18: bit `idx` of the table is bit 0 of the shifted table. -/
theorem evalLutShiftsTheTable : Obligations.EvalLutShiftsTheTable := by
  intro s table idx
  have hbit : bitValue (lutBit table idx) = ((table >>> idx.toNat) &&& 1).setWidth 4 := by
    rw [show (1 : Table) = 1#16 from rfl, BitVec.and_one_eq_setWidth_ofBool_getLsbD]
    simp [bitValue, lutBit, BitVec.setWidth_setWidth_of_le]
  rw [← hbit]
  rfl

theorem bitValue_eq (b : Bool) : bitValue b = if b then 1 else 0 := by cases b <;> rfl

/-- RESOLVE of an admitted selector returns its value and reads the state only (R141). -/
theorem exec_resolve {s : State} {src : Source} (h : s.sourceAdmitted src = true) :
    exec (.resolve src) s = .next { s with value := if s.resolve src then 1 else 0 } := by
  rw [← bitValue_eq]
  exact if_pos h

theorem exec_seamRead {s : State} {c : Coord} {out : Dir} {b : Bool} (h : s.seamValue c out = some b) :
    exec (.seamRead c out) s = .next { s with value := if b then 1 else 0 } := by
  simp only [exec, execSeamRead, h, bitValue_eq]

theorem State.resolve_cell_inRegion {s : State} {c : Coord} (h : inRegion s.params c = true) (out : Dir) :
    s.resolve (.cell c out) = s.outAt c out := if_pos h

/-- A producer across an edge is read from the seam (R141, 42_seam_barrier.md R220). -/
theorem State.resolve_cell_seam {s : State} {c : Coord} {out : Dir} {b : Bool} (h : inRegion s.params c = false)
    (hb : s.seamValue c out = some b) : s.resolve (.cell c out) = b := by
  simp only [State.resolve, h, hb, Bool.false_eq_true, if_false, Option.getD_some]

/-- Settles O19: each form is admitted, and its value is the one R141 gives. -/
theorem resolveEachForm : Obligations.ResolveEachForm := by
  intro s
  refine ⟨exec_resolve rfl, fun v => exec_resolve rfl, fun n b w hw hb => ?input, fun c out hc => ?own,
    fun e k out hp hn hk => ?seam⟩
  case input => exact exec_resolve (by simp [State.sourceAdmitted, hw, hb])
  case own =>
    rw [exec_resolve (by simp [State.sourceAdmitted, hc]), State.resolve_cell_inRegion hc]
  case seam =>
    have hlane := seamLane_ncell hp hn hk
    obtain ⟨_, _, _, hout⟩ := seamLane_spec hlane
    obtain ⟨b, hb⟩ : ∃ b, s.seamValue (ncell s.params e k) out = some b := by simp [State.seamValue, hlane]
    refine ⟨_, exec_resolve (by simp [State.sourceAdmitted, hlane]), ?_⟩
    rw [exec_seamRead hb, State.resolve_cell_seam hout hb]

/-- The index of a cell as the sum of its weighted pins (R142; 30_encoding.md R92). -/
theorem State.lutIndex_toNat (s : State) (c : Coord) : (s.lutIndex c).toNat =
    (s.resolve (s.srcAt c .north)).toNat + 2 * (s.resolve (s.srcAt c .east)).toNat
      + 4 * (s.resolve (s.srcAt c .south)).toNat + 8 * (s.resolve (s.srcAt c .west)).toNat :=
  nibbleOf_toNat _

theorem State.lutIndex_bit (s : State) (c : Coord) (p : Dir) :
    (s.lutIndex c).getLsbD p.code = s.resolve (s.srcAt c p) := nibbleOf_bit _ p

theorem State.cellOutputs_bit (s : State) (c : Coord) (d : Dir) :
    (s.cellOutputs c).getLsbD d.code = lutBit (s.lutAt c d) (s.lutIndex c) := nibbleOf_bit _ d

/-- Settles O20. -/
theorem indexWeighsThePins : Obligations.IndexWeighsThePins :=
  fun s c hc => ⟨s.lutIndex c, if_pos hc, s.lutIndex_toNat c⟩

/-! ### EVAL_CELL -/

/-- What EVAL_CELL leaves at a cell of the region: its new outputs at its own, the old ones at any other (R143). -/
theorem exec_evalCell {s : State} {c : Coord} (hc : inRegion s.params c = true) (hn : s.nxt.length = cellCount s.params) :
    ∃ t, exec (.evalCell c) s = .next t ∧ t = { s with nxt := t.nxt } ∧ t.nxtAt c = s.cellOutputs c ∧
      ∀ c', inRegion s.params c' = true → c' ≠ c → t.nxtAt c' = s.nxtAt c' := by
  refine ⟨{ s with nxt := s.nxt.set (cellIndex s.params c) (s.cellOutputs c) }, if_pos hc, rfl, ?_, fun c' hc' hne => ?_⟩
  · have hi : cellIndex s.params c < s.nxt.length := hn ▸ cellIndex_lt hc
    simp [State.nxtAt, List.getD_eq_getElem?_getD, hi]
  · have hi : cellIndex s.params c ≠ cellIndex s.params c' := fun h => hne (cellIndex_injective hc' hc h.symm)
    simp [State.nxtAt, List.getD_eq_getElem?_getD, List.getElem?_set_ne hi]

/-- Settles O21: the new outputs of a cell are its four table bits at its index. -/
theorem evalCellWritesItsNextBits : Obligations.EvalCellWritesItsNextBits := by
  intro s c hc hn
  obtain ⟨t, ht, hframe, hself, hother⟩ := exec_evalCell hc hn
  refine ⟨t, ht, hframe, fun d => ?_, hother⟩
  rw [hself, State.cellOutputs_bit, lutBit, State.lutIndex_toNat]

/-! ### The table of a function -/

/-- Bit `i` of a sum of the powers of two that `f` selects is what `f` says of `i`. -/
theorem testBit_sum_two_pow (f : Nat → Bool) (n i : Nat) :
    ((List.range n).foldl (fun acc k => acc + if f k then 2 ^ k else 0) 0).testBit i = (decide (i < n) && f i) := by
  induction n generalizing i with
  | zero => simp
  | succ n ih =>
    rw [List.range_succ, List.foldl_append]
    generalize (List.range n).foldl _ 0 = low at ih ⊢
    have hlow : low < 2 ^ n := Nat.lt_pow_two_of_testBit _ fun k hk => by simp [ih, hk]
    have hstep : (low + if f n then 2 ^ n else 0) = 2 ^ n * (f n).toNat ||| low := by
      rw [← Nat.two_pow_add_eq_or_of_lt hlow, Nat.add_comm]
      cases f n <;> simp
    simp only [List.foldl_cons, List.foldl_nil, hstep, Nat.testBit_or, ih, Nat.testBit_two_pow_mul, Nat.testBit_bool_toNat]
    rcases lt_trichotomy i n with h | rfl | h
    · simp [h, h.le, h.not_ge]
    · simp
    · simp [h.le, h.not_ge, h.not_gt, Nat.sub_ne_zero_of_lt h]

theorem tableOfBits_getLsbD (f : Nat → Bool) {i : Nat} (h : i < 16) : (tableOfBits f).getLsbD i = f i := by
  rw [tableOfBits, BitVec.getLsbD_ofNat, testBit_sum_two_pow, decide_eq_true h, Bool.true_and, Bool.true_and]

/-- A table made from a function of the index reads as that function (R140, R154). -/
theorem lutBit_tableOf (f : Nibble → Bool) (idx : Nibble) : lutBit (tableOf f) idx = f idx := by
  rw [lutBit, tableOf, tableOfBits_getLsbD _ idx.isLt, BitVec.ofNat_toNat, BitVec.setWidth_eq]

/-- Settles O22: the table of an output that forwards reads bit P of the index, which is pin P. -/
theorem forwardingTablesForward : Obligations.ForwardingTablesForward := by
  refine ⟨⟨rfl, rfl, rfl, rfl⟩, fun s c p d hc hn hfwd => ?_⟩
  obtain ⟨t, ht, _, hself, _⟩ := exec_evalCell hc hn
  refine ⟨t, ht, ?_⟩
  rw [hself, State.cellOutputs_bit, hfwd, fwd, lutBit_tableOf, State.lutIndex_bit]

end Sys2Proof.Machine
end

section
/-!
PROOFS. A launch, from both sides of its checks (40_lut_eval.md R145 to R153; 70_reset_and_hazards.md R340): what each group of
checks asks of the Program, and which codes a check can report.
-/

namespace Sys2Proof

/-! ### The parts of a Program and of its launch -/

theorem nameOk_iff {n : VarName} : nameOk n = true ↔ 1 ≤ n.length ∧ n.length ≤ 255 := by
  simp only [nameOk, Bool.and_eq_true, decide_eq_true_eq]

theorem Dir.ofCode_isSome_iff {n : Nat} : (Dir.ofCode n).isSome = true ↔ n ≤ 3 := by
  match n with
  | 0 | 1 | 2 | 3 => simp [Dir.ofCode]
  | n + 4 => simp [Dir.ofCode]

/-- The integers that are direction codes (30_encoding.md R93). -/
theorem dirOfInt_isSome_iff {d : Int} : (dirOfInt d).isSome = true ↔ 0 ≤ d ∧ d ≤ 3 := by
  unfold dirOfInt
  split
  · rw [Dir.ofCode_isSome_iff]
    omega
  · next h => simp [h]

/-- A record has four tables of 16 bits and four pins (R150). -/
theorem CellRecord.shapeOk_iff {r : CellRecord} : r.shapeOk = true ↔
    r.outputs.length = 4 ∧ (∀ v ∈ r.outputs, 0 ≤ v ∧ v ≤ 65535) ∧ r.pins.length = 4 := by
  obtain ⟨x, y, outputs, inputs, legacyOp⟩ := r
  cases inputs <;> simp [CellRecord.shapeOk, CellRecord.pins, and_assoc]

/-- The codes of a DimensionError or a ConfigurationError (R153; 60_exceptions.md R302). -/
def ErrorCode.OfLaunch (code : ErrorCode) : Prop := code.code.toNat / 256 = 2 ∨ code.code.toNat / 256 = 4

namespace Machine

/-! ### What each group of checks asks -/

theorem firstError_nil : firstError [] = none := rfl

theorem firstError_cons_eq_none_iff {check : Option ErrorCode} {checks : List (Option ErrorCode)} :
    firstError (check :: checks) = none ↔ check = none ∧ firstError checks = none := by
  simp only [firstError_eq_none_iff, List.forall_mem_cons]

theorem widthOk_iff {w : Nat} : widthOk w = true ↔ 1 ≤ w ∧ w ≤ 64 := by
  rw [widthOk, Bool.and_eq_true, decide_eq_true_eq, decide_eq_true_eq]
  rfl

/-- A declared name is found with its width, names being keys (R95). -/
theorem lookupName_eq_some_iff {α : Type} {l : List (VarName × α)} (hkeys : (l.map Prod.fst).Nodup) {n : VarName} {v : α} :
    lookupName n l = some v ↔ (n, v) ∈ l := by
  refine ⟨lookupName_mem, fun hmem => ?_⟩
  obtain ⟨w, hw⟩ := Option.isSome_iff_exists.1 ((lookupName_isSome n l).2 (List.mem_map_of_mem hmem))
  have hsame := List.inj_on_of_nodup_map hkeys hmem (lookupName_mem hw) rfl
  rw [hw, (Prod.mk.inj hsame).2]

/-- The dimensions are the tile's; those of a valid tile are in range (R146 (1)). -/
theorem dimensionError_eq_none_iff {p : Params} (hp : p.valid = true) {g : Program} :
    dimensionError p g = none ↔ g.width = p.tileW ∧ g.height = p.tileH := by
  simp only [dimensionError, firstError_cons_eq_none_iff, firstError_nil, require_eq_none_iff, decide_eq_true_eq, and_true,
    and_iff_right_iff_imp]
  rintro ⟨hw, hh⟩
  simp only [Params.valid, dimOk, Bool.and_eq_true, decide_eq_true_eq] at hp
  simp only [programDimOk, hw, hh, Bool.and_eq_true, decide_eq_true_eq]
  omega

/-- No coordinate is listed twice or seen before, and no record is of the legacy kind or misshapen (R150, R152). -/
theorem recordsError_eq_none_iff {seen : List Coord} {cells : List CellRecord} : recordsError seen cells = none ↔
    (cells.map CellRecord.coord).Nodup ∧ (∀ r ∈ cells, r.coord ∉ seen) ∧
    ∀ r ∈ cells, r.legacyOp = false ∧ r.shapeOk = true := by
  induction cells generalizing seen with
  | nil => simp [recordsError]
  | cons r rest ih =>
    have hfresh : (∀ r' ∈ rest, r'.coord ∉ r.coord :: seen) ↔
        r.coord ∉ rest.map CellRecord.coord ∧ ∀ r' ∈ rest, r'.coord ∉ seen := by
      simp only [List.mem_cons, not_or, forall_and, List.mem_map, not_exists, not_and]
    simp only [recordsError, firstError_cons_eq_none_iff, firstError_nil, require_eq_none_iff, ih, hfresh, List.map_cons,
      List.nodup_cons, List.forall_mem_cons, Bool.not_eq_true', List.contains_eq_mem, decide_eq_false_iff_not, and_true]
    tauto

/-- What R146 to R148 ask of a source of the cell at `c`. -/
def SourceChecked (p : Params) (g : Program) (c : Coord) : RawSource → Prop
  | .null => True
  | .const v => v = 0 ∨ v = 1
  | .input n b => ∃ w, (n, w) ∈ g.inputBits ∧ b < w
  | .cell x y out => inGrid p ⟨x, y⟩ = true ∧ 0 ≤ out ∧ out ≤ 3 ∧ c.adjacent ⟨x, y⟩ = true
  | .other => False

/-- The four checks of a source, of which its form is asked one or two. -/
theorem source_checks_iff {p : Params} {g : Program} (hkeys : (g.inputBits.map Prod.fst).Nodup) {c : Coord} {src : RawSource} :
    (cellSourceError p src = none ∧ constSourceError src = none ∧ adjacencyError c src = none ∧ inputSourceError g src = none) ↔
      SourceChecked p g c src := by
  cases src with
  | null => exact iff_of_true ⟨rfl, rfl, rfl, rfl⟩ trivial
  | other => exact iff_of_false (fun ⟨_, hconst, _, _⟩ => nomatch hconst) id
  | const v =>
    simp only [cellSourceError, constSourceError, adjacencyError, inputSourceError, SourceChecked, require_eq_none_iff,
      decide_eq_true_eq, true_and, and_true]
  | input n b =>
    simp only [cellSourceError, constSourceError, adjacencyError, inputSourceError, SourceChecked, true_and,
      ← lookupName_eq_some_iff hkeys]
    cases lookupName n g.inputBits <;> simp [require_eq_none_iff]
  | cell x y out =>
    simp only [cellSourceError, constSourceError, adjacencyError, inputSourceError, SourceChecked, firstError_cons_eq_none_iff,
      firstError_nil, require_eq_none_iff, dirOfInt_isSome_iff, true_and, and_true, and_assoc]

/-! ### The codes a check reports -/

/-- A check that reports no other code. -/
def ReportsLaunchCode (check : Option ErrorCode) : Prop := ∀ code, check = some code → code.OfLaunch

namespace ReportsLaunchCode

theorem passed : ReportsLaunchCode none := nofun

theorem failed {code : ErrorCode} (h : code.OfLaunch) : ReportsLaunchCode (some code) := by
  rintro _ ⟨⟩
  exact h

theorem require (ok : Bool) {code : ErrorCode} (h : code.OfLaunch) : ReportsLaunchCode (require ok code) := by
  cases ok
  · exact .failed h
  · exact .passed

theorem cons {check : Option ErrorCode} {checks : List (Option ErrorCode)} (h : ReportsLaunchCode check)
    (hs : ReportsLaunchCode (firstError checks)) : ReportsLaunchCode (firstError (check :: checks)) := by
  cases check with
  | none => exact hs
  | some code => exact h

theorem map {α : Type} (l : List α) {check : α → Option ErrorCode} (h : ∀ a, ReportsLaunchCode (check a)) :
    ReportsLaunchCode (firstError (l.map check)) := by
  induction l with
  | nil => exact .passed
  | cons a l ih => exact .cons (h a) ih

theorem dimension (p : Params) (g : Program) : ReportsLaunchCode (dimensionError p g) :=
  .cons (.require _ (.inl rfl)) (.cons (.require _ (.inl rfl)) .passed)

theorem records (seen : List Coord) (cells : List CellRecord) : ReportsLaunchCode (recordsError seen cells) := by
  induction cells generalizing seen with
  | nil => exact .passed
  | cons r rest ih =>
    exact .cons (.require _ (.inr rfl)) (.cons (.require _ (.inr rfl)) (.cons (.require _ (.inr rfl)) (.cons (ih _) .passed)))

theorem declarations (g : Program) : ReportsLaunchCode (declarationsError g) :=
  .cons (.require _ (.inr rfl)) (.cons (.require _ (.inr rfl)) .passed)

theorem cellSource (p : Params) (src : RawSource) : ReportsLaunchCode (cellSourceError p src) := by
  cases src with
  | cell x y out => exact .cons (.require _ (.inr rfl)) (.cons (.require _ (.inr rfl)) .passed)
  | null | const v | input n b | other => exact .passed

theorem constSource (src : RawSource) : ReportsLaunchCode (constSourceError src) := by
  cases src with
  | const v => exact .require _ (.inr rfl)
  | other => exact .failed (.inr rfl)
  | null | input n b | cell x y out => exact .passed

theorem adjacency (c : Coord) (src : RawSource) : ReportsLaunchCode (adjacencyError c src) := by
  cases src with
  | cell x y out => exact .require _ (.inr rfl)
  | null | const v | input n b | other => exact .passed

theorem inputSource (g : Program) (src : RawSource) : ReportsLaunchCode (inputSourceError g src) := by
  cases src with
  | input n b =>
    simp only [inputSourceError]
    split
    · exact .failed (.inr rfl)
    · exact .require _ (.inr rfl)
  | null | const v | cell x y out | other => exact .passed

theorem pins (g : Program) {check : Coord → RawSource → Option ErrorCode} (h : ∀ c src, ReportsLaunchCode (check c src)) :
    ReportsLaunchCode (pinsError g check) :=
  .map g.cells fun r => .map r.pins (h r.coord)

theorem taps (p : Params) (g : Program) : ReportsLaunchCode (tapsError p g) :=
  .map g.outputBits fun d => .map d.2 fun _ => .cons (.require _ (.inr (by rfl))) (.cons (.require _ (.inr (by rfl))) .passed)

theorem admission (p : Params) (g : Program) : ReportsLaunchCode (admissionError p g) :=
  .cons (dimension p g) <| .cons (records [] g.cells) <| .cons (declarations g) <|
  .cons (.map g.cells fun _ => .require _ (.inr rfl)) <| .cons (pins g fun _ => cellSource p) <|
  .cons (pins g fun _ => constSource) <| .cons (pins g adjacency) <| .cons (pins g fun _ => inputSource g) <|
  .cons (taps p g) .passed

end ReportsLaunchCode

/-! ### The launch -/

theorem exec_reset_admitted {p : Params} {g : Program} (hp : p.valid = true) (hkeys : g.keysDistinct = true)
    (h : admissionError p g = none) (s : State) :
    exec (.reset p g) s = .next (initialState p g s.freeCount s.agenda) := by
  simp only [exec, execReset, hp, hkeys, h, Bool.and_self, if_true]

theorem exec_reset_refused {p : Params} {g : Program} {code : ErrorCode} (hp : p.valid = true) (hkeys : g.keysDistinct = true)
    (h : admissionError p g = some code) (s : State) : exec (.reset p g) s = .refused (.launchRefused code) := by
  simp only [exec, execReset, hp, hkeys, h, Bool.and_self, if_true]

/-- Settles O54: the nine groups of checks, each read as the conditions it tests; and the codes they report. -/
theorem launchAdmitsExactlyCheckedPrograms : Obligations.LaunchAdmitsExactlyCheckedPrograms := by
  intro p g s hp hkeys
  obtain ⟨hinKeys, _⟩ := Bool.and_eq_true_iff.1 hkeys
  rw [decide_eq_true_eq] at hinKeys
  refine ⟨?admitted, fun hne => ?refused⟩
  case refused =>
    obtain ⟨code, hcode⟩ := Option.ne_none_iff_exists'.1 hne
    exact ⟨code, exec_reset_refused hp hkeys hcode s, ReportsLaunchCode.admission p g code hcode⟩
  case admitted =>
    rw [admissionError_eq_none_iff, dimensionError_eq_none_iff hp, recordsError_eq_none_iff, declarationsError_eq_none_iff,
      tapsError_eq_none_iff]
    simp only [CellRecord.shapeOk_iff, nameOk_iff, widthOk_iff, dirOfInt_isSome_iff, source_checks_iff hinKeys]
    constructor
    · rintro ⟨hdim, ⟨hnodup, _, hrecords⟩, ⟨hin, hout⟩, hregion, hpins, htaps⟩
      refine ⟨hdim, hnodup, fun r hr => ?_, fun d hd => ?_, fun d hd => ?_, hpins⟩
      · obtain ⟨hlegacy, hshape⟩ := hrecords r hr
        exact ⟨hregion r hr, hlegacy, hshape⟩
      · obtain ⟨hname, hlow, hhigh⟩ := hin d hd
        exact ⟨hlow, hhigh, hname⟩
      · obtain ⟨⟨hshort, hlong⟩, hlow, hhigh⟩ := hout d hd
        exact ⟨hlow, hhigh, hshort, hlong, htaps d hd⟩
    · rintro ⟨hdim, hnodup, hrecords, hin, hout, hpins⟩
      refine ⟨hdim, ⟨hnodup, fun _ _ => List.not_mem_nil, fun r hr => (hrecords r hr).2⟩,
        ⟨fun d hd => ?_, fun d hd => ?_⟩, fun r hr => (hrecords r hr).1, hpins, fun d hd => ?_⟩
      · obtain ⟨hlow, hhigh, hname⟩ := hin d hd
        exact ⟨hname, hlow, hhigh⟩
      · obtain ⟨hlow, hhigh, hshort, hlong, _⟩ := hout d hd
        exact ⟨⟨hshort, hlong⟩, hlow, hhigh⟩
      · obtain ⟨_, _, _, _, htaps⟩ := hout d hd
        exact htaps

end Machine

end Sys2Proof
end

section
/-!
PROOFS. A coordinate the Program does not list (40_lut_eval.md R144): what the tile has there at the launch, and why its outputs stay
0 through any number of ticks.
-/

namespace Sys2Proof

theorem Program.recordAt_eq_none {g : Program} {c : Coord} (h : ∀ r ∈ g.cells, r.coord ≠ c) : g.recordAt c = none :=
  List.find?_eq_none.2 fun r hr => by simpa using h r hr

namespace Machine

theorem initialState_curAt (p : Params) (g : Program) (drawn : Nat) (agenda : List Event) (c : Coord) :
    (initialState p g drawn agenda).curAt c = 0 := by
  simp [State.curAt, initialState]

/-- The tables of a launch at a cell of the region: those of its record, or 0 (10_state.md R22, R23). -/
theorem initialState_lutAt {p : Params} (g : Program) (drawn : Nat) (agenda : List Event) {c : Coord}
    (hc : inRegion p c = true) (d : Dir) : (initialState p g drawn agenda).lutAt c d =
      (((g.recordAt c).map CellRecord.tables).getD (PerDir.all 0)).get d := by
  have h := getD_map_regionCoords (fun c => ((g.recordAt c).map CellRecord.tables).getD (PerDir.all 0)) (PerDir.all 0) hc
  exact congrArg (PerDir.get · d) h

/-- A cell of the region with zero tables and outputs 0. -/
structure State.ZeroCell (s : State) (c : Coord) : Prop where
  region : inRegion s.params c = true
  tables : ∀ d, s.lutAt c d = 0
  outputs : s.curAt c = 0

namespace State.ZeroCell

variable {s : State} {c : Coord}

/-- Zero tables give outputs 0 at any index (R140, R143). -/
theorem cellOutputs (h : s.ZeroCell c) : s.cellOutputs c = 0 :=
  nibble_ext fun d => by simp [State.cellOutputs_bit, lutBit, h.tables d]

theorem tickBody (h : s.ZeroCell c) : s.tickBody.ZeroCell c where
  region := by rw [State.tickBody_frame]; exact h.region
  tables := by rw [State.tickBody_frame]; exact h.tables
  outputs := by
    rw [State.tickBody_curAt s h.region, State.nextOutputs, h.cellOutputs, h.outputs, ite_self]

theorem runTicks (h : s.ZeroCell c) (n : Nat) : ∃ t, runTicks n s = .next t ∧ t.ZeroCell c := by
  induction n generalizing s with
  | zero => exact ⟨s, rfl, h⟩
  | succ n ih =>
    cases he : s.tickEnabled with
    | false => rw [runTicks_succ (exec_tick_disabled he)]; exact ih h
    | true => rw [runTicks_succ (exec_tick_enabled he)]; exact ih h.tickBody

theorem resolve (h : s.ZeroCell c) (d : Dir) : s.resolve (.cell c d) = false := by
  rw [State.resolve_cell_inRegion h.region, State.outAt, h.outputs]
  exact BitVec.getLsbD_zero

end State.ZeroCell

/-- Settles O23: at the launch by the reads of `initialState`, after ticks by the invariant `State.ZeroCell`. -/
theorem absentCellsStayZero : Obligations.AbsentCellsStayZero := by
  refine ⟨fun p g s c hp hkeys hadm hc habsent => ?_, fun n s c hc htables houtputs => ?_⟩
  · refine ⟨_, exec_reset_admitted hp hkeys hadm s, initialState_curAt .., fun d => ?_⟩
    rw [initialState_lutAt g _ _ hc, initialState_srcAt g _ _ hc, Program.recordAt_eq_none habsent]
    exact ⟨PerDir.get_all .., PerDir.get_all ..⟩
  · obtain ⟨t, ht, hzero⟩ := State.ZeroCell.runTicks ⟨hc, htables, houtputs⟩ n
    exact ⟨t, ht, hzero.outputs, hzero.resolve⟩

end Machine

end Sys2Proof
end

section
/-!
PROOFS. The tick and the cycle (41_tick.md R170 to R175): what one tick leaves of each part of the state, when an operation of the
fabric or of the barrier is not enabled, and a run of ticks as the iterate of `State.tickBody`.
-/

namespace Sys2Proof.Machine

/-! ### What one tick leaves -/

section Tick

variable (s : State)

@[simp] theorem State.tickBody_params : s.tickBody.params = s.params := by rw [State.tickBody_frame]
@[simp] theorem State.tickBody_t : s.tickBody.t = s.t + 1 := by rw [State.tickBody_frame]
@[simp] theorem State.tickBody_pending : s.tickBody.pending = s.pending - 1 := by rw [State.tickBody_frame]
@[simp] theorem State.tickBody_halted : s.tickBody.halted = s.halted := by rw [State.tickBody_frame]
@[simp] theorem State.tickBody_srcAt (c : Coord) (p : Dir) : s.tickBody.srcAt c p = s.srcAt c p := by
  rw [State.tickBody_frame]; rfl
@[simp] theorem State.tickBody_lutAt (c : Coord) (d : Dir) : s.tickBody.lutAt c d = s.lutAt c d := by
  rw [State.tickBody_frame]; rfl
@[simp] theorem State.tickBody_inValue (n : VarName) : s.tickBody.inValue n = s.inValue n := by
  rw [State.tickBody_frame]; rfl

/-- A tick retains frames on an edge; it neither links it nor accepts a frame on it (R170, 42_seam_barrier.md R207). -/
@[simp] theorem State.tickBody_edge_linked (e : Dir) : (s.tickBody.edge e).linked = (s.edge e).linked := by
  rw [State.tickBody_edge]
  split <;> rfl

@[simp] theorem State.tickBody_edge_rxNext (e : Dir) : (s.tickBody.edge e).rxNext = (s.edge e).rxNext := by
  rw [State.tickBody_edge]
  split <;> rfl

/-- The frames of a tick are those of the committed outputs (R205, R207). -/
theorem State.tickBody_frameOf (e : Dir) (f : Nat) : s.tickBody.frameOf e f = s.commitTick.frameOf e f :=
  State.frameOf_congr (s := s.commitTick) s.tickBody_params (by rw [State.tickBody_frame, State.commitTick_cur]) e f

variable {s} {c : Coord}

/-- A cell of the other parity holds its outputs (R173). -/
theorem State.tickBody_curAt_held (hc : inRegion s.params c = true) (hq : c.parity ≠ s.t % 2) :
    s.tickBody.curAt c = s.curAt c := by
  rw [s.tickBody_curAt hc, State.nextOutputs, if_neg hq]

/-- A cell of the tick's parity gets the outputs of its tables at its index (R170). -/
theorem State.tickBody_curAt_updated (hc : inRegion s.params c = true) (hq : c.parity = s.t % 2) :
    s.tickBody.curAt c = s.cellOutputs c := by
  rw [s.tickBody_curAt hc, State.nextOutputs, if_pos hq]

theorem State.tickBody_outAt_held (hc : inRegion s.params c = true) (hq : c.parity ≠ s.t % 2) (d : Dir) :
    s.tickBody.outAt c d = s.outAt c d := by
  rw [State.outAt, State.tickBody_curAt_held hc hq, State.outAt]

theorem State.tickBody_outAt_tableOf (hc : inRegion s.params c = true) (hq : c.parity = s.t % 2) {d : Dir}
    {f : Nibble → Bool} (hf : s.lutAt c d = tableOf f) : s.tickBody.outAt c d = f (s.lutIndex c) := by
  rw [State.outAt, State.tickBody_curAt_updated hc hq, State.cellOutputs_bit, hf, lutBit_tableOf]

/-- An output that forwards pin `p` gets the value of that pin (40_lut_eval.md R154). -/
theorem State.tickBody_outAt_fwd (hc : inRegion s.params c = true) (hq : c.parity = s.t % 2) {d p : Dir}
    (hf : s.lutAt c d = fwd p) : s.tickBody.outAt c d = s.resolve (s.srcAt c p) := by
  rw [State.tickBody_outAt_tableOf hc hq hf, State.lutIndex_bit]

end Tick

/-- Settles O24: the lemmas of one tick, its frames being built from the committed outputs. -/
theorem tickUpdatesOneParity : Obligations.TickUpdatesOneParity := by
  intro s hh hp hframes
  refine ⟨s.tickBody, exec_tick_enabled (s.tickEnabled_iff.2 ⟨hh, hp, s.barrierOk_iff.2 hframes⟩), ?frame,
    fun c d hc hq => ?updated, fun c hc hq => State.tickBody_curAt_held hc hq, ?sent, fun e => ?edge⟩
  case frame =>
    rw [State.tickBody_frame]
    rfl
  case updated =>
    rw [State.tickBody_curAt_updated hc hq, State.cellOutputs_bit, lutBit, State.lutIndex_toNat]
  case sent =>
    simp only [State.tickBody_frameOf]
    rw [State.tickBody_frame]
    exact s.commitTick.emitAll_seamOut s.t
  case edge =>
    rw [State.tickBody_edge, State.tickBody_frameOf]
    rfl

/-! ### Operations that are not enabled (log 8, log 9) -/

section Disabled

variable {s : State}

theorem State.tickEnabled_eq_false_iff : s.tickEnabled = false ↔
    s.halted = true ∨ s.pending = 0 ∨ ∃ e, (s.edge e).linked = true ∧ (s.edge e).rxNext < s.t := by
  rw [← State.barrierOk_eq_false_iff]
  simp only [State.tickEnabled, Bool.and_eq_false_iff, Bool.not_eq_false', decide_eq_false_iff_not, Nat.not_lt,
    Nat.le_zero_eq, or_assoc]

theorem exec_stall_disabled (h : s.stallEnabled = false) : exec .stall s = .next s := by
  simp [exec, execStall, h]

theorem exec_substituteHeld_disabled {e : Dir} (h : s.substituteEnabled e = false) :
    exec (.substituteHeld e) s = .next s := by
  simp [exec, execSubstituteHeld, h]

theorem exec_cycle_even (h : s.t % 2 = 0) : exec .cycle s = .next s.tickIfEnabled.tickIfEnabled := by
  simp [exec, execCycle, h]

theorem exec_cycle_odd (h : s.t % 2 = 1) : exec .cycle s = .next s := by
  simp [exec, execCycle, h]

theorem State.stallEnabled_eq_false (h : s.halted = true ∨ s.pending = 0 ∨ s.barrierOk = true ∨
    s.reported = some s.t ∧ s.bstat.blocked = true) : s.stallEnabled = false := by
  rw [← Bool.not_eq_true, State.stallEnabled_iff]
  rintro ⟨hh, hp, hbarrier, hreport⟩
  rcases h with h | h | h | ⟨hr, hb⟩
  · rw [hh] at h; cases h
  · omega
  · rw [hbarrier] at h; cases h
  · rw [hreport hr] at hb; cases hb

theorem State.substituteEnabled_eq_false {e : Dir} (h : s.params.policy = .stall ∨ s.halted = true ∨ s.pending = 0 ∨
    (s.edge e).linked = false ∨ s.t ≤ (s.edge e).rxNext) : s.substituteEnabled e = false := by
  rcases h with h | h | h | h | h <;> simp [State.substituteEnabled, State.edgeMissing, h]

end Disabled

/-- Settles O25. -/
theorem disabledOperationsDoNothing : Obligations.DisabledOperationsDoNothing := by
  refine fun s => ⟨fun h => exec_tick_disabled (State.tickEnabled_eq_false_iff.2 h), fun h => ?_,
    fun e h => exec_substituteHeld_disabled (State.substituteEnabled_eq_false h), exec_cycle_odd⟩
  rw [← State.barrierOk_iff] at h
  exact exec_stall_disabled (State.stallEnabled_eq_false h)

/-! ### The frames a tick waits for (42_seam_barrier.md R218) -/

section Frames

variable {s : State}

/-- The frames for one tick are its barrier. -/
theorem State.framesFor_one_iff : s.framesFor 1 ↔ s.barrierOk = true := by
  simp only [State.framesFor, State.barrierOk_iff, Nat.add_le_add_iff_right]

/-- One tick uses the frames of one tick. -/
theorem State.tickBody_framesFor_iff {n : Nat} : s.tickBody.framesFor n ↔ s.framesFor (n + 1) := by
  simp only [State.framesFor, State.tickBody_edge_linked, State.tickBody_edge_rxNext, State.tickBody_t,
    Nat.add_right_comm s.t 1 n, ← Nat.add_assoc]

theorem State.framesFor_mono {m n : Nat} (h : s.framesFor n) (hmn : m ≤ n) : s.framesFor m := fun e he =>
  (Nat.add_le_add_left hmn s.t).trans (h e he)

theorem State.framesFor_of_unlinked (h : ∀ e, (s.edge e).linked = false) (n : Nat) : s.framesFor n := fun e he => by
  rw [h e] at he
  cases he

theorem State.tickEnabled_of_framesFor (hh : s.halted = false) (hp : 0 < s.pending) (hf : s.framesFor 1) :
    s.tickEnabled = true := s.tickEnabled_iff.2 ⟨hh, hp, State.framesFor_one_iff.1 hf⟩

theorem State.tickIfEnabled_of_enabled (h : s.tickEnabled = true) : s.tickIfEnabled = s.tickBody := if_pos h

theorem State.tickIfEnabled_of_disabled (h : s.tickEnabled = false) : s.tickIfEnabled = s := by
  simp [State.tickIfEnabled, h]

/-- A run of ticks whose frames are there never waits. -/
theorem runTicks_of_framesFor {n : Nat} (hh : s.halted = false) (hp : n ≤ s.pending) (hf : s.framesFor n) :
    runTicks n s = .next (State.tickBody^[n] s) := by
  induction n generalizing s with
  | zero => rfl
  | succ n ih =>
    have he : s.tickEnabled = true :=
      State.tickEnabled_of_framesFor hh (Nat.zero_lt_of_lt hp) (State.framesFor_mono hf (Nat.le_add_left 1 n))
    rw [runTicks_succ (exec_tick_enabled he), Function.iterate_succ_apply]
    exact ih (by simpa using hh) (by rw [State.tickBody_pending]; omega) (State.tickBody_framesFor_iff.2 hf)

theorem State.runsFree.runTicks {n : Nat} (h : s.runsFree n) : runTicks n s = .next (State.tickBody^[n] s) :=
  runTicks_of_framesFor h.1 h.2.1 (State.framesFor_of_unlinked h.2.2 n)

@[simp] theorem State.iterate_tickBody_t (s : State) (n : Nat) : (State.tickBody^[n] s).t = s.t + n := by
  induction n with
  | zero => rfl
  | succ n ih => rw [Function.iterate_succ_apply', State.tickBody_t, ih, Nat.add_assoc]

end Frames

/-- Settles O26: tick B is enabled where a second tick is pending and the frames for two ticks are there, and each tick holds the
cells of the other parity. -/
theorem cycleIsTickAThenTickB : Obligations.CycleIsTickAThenTickB := by
  intro s ht hh hp hf
  have hA : s.tickEnabled = true := State.tickEnabled_of_framesFor hh hp hf
  have hcycle : exec .cycle s = .next s.tickBody.tickIfEnabled := by
    rw [exec_cycle_even ht, State.tickIfEnabled_of_enabled hA]
  refine ⟨s.tickBody, exec_tick_enabled hA, s.tickBody_t, by rw [State.tickBody_pending]; omega,
    fun c hc hq => State.tickBody_curAt_held hc (by omega), fun hp2 hf2 => ?runs, fun hwait => ?ends⟩
  case runs =>
    have hB : s.tickBody.tickEnabled = true := State.tickEnabled_of_framesFor (by simpa using hh)
      (by rw [State.tickBody_pending]; omega) (State.tickBody_framesFor_iff.2 hf2)
    refine ⟨s.tickBody.tickBody, exec_tick_enabled hB, hcycle.trans (by rw [State.tickIfEnabled_of_enabled hB]),
      by simp, by simp only [State.tickBody_pending]; omega, fun c hc hq => ?_⟩
    exact State.tickBody_curAt_held (by simpa using hc) (by rw [State.tickBody_t]; omega)
  case ends =>
    have hB : s.tickBody.tickEnabled = false := by
      rw [← Bool.not_eq_true, State.tickEnabled_iff, ← State.framesFor_one_iff, State.tickBody_framesFor_iff,
        State.tickBody_pending]
      rintro ⟨_, hp2, hf2⟩
      exact hwait.elim (fun hone => by omega) fun hmissing => hmissing hf2
    rw [hcycle, State.tickIfEnabled_of_disabled hB]

end Sys2Proof.Machine
end

section
/-!
PROOFS. The fabric on its own, with no linked edge: what its ticks change, the timing of a chain of forwarding cells (41_tick.md
R178) and the ring of an inverter and a forwarding cell (R186).
-/

namespace Sys2Proof.Machine

/-! ### Ticks with no linked edge -/

section Unlinked

variable {s : State}

/-- With no linked edge a tick sends nothing and leaves the edges as they are. -/
theorem State.tickBody_of_unlinked (h : ∀ e, (s.edge e).linked = false) : s.tickBody =
    { s with
      nxt := s.nextBuffer
      cur := s.nextBuffer
      t := s.t + 1
      pending := s.pending - 1
      bstat := BarrierStatus.clear
      reported := none } := by
  have hlinked : ∀ e, (s.commitTick.edge e).linked = false := h
  have hedges : (s.commitTick.emitAll s.t).edges = s.edges :=
    PerDir.ext_get fun e => (s.commitTick.emitAll_edge s.t e).trans (by rw [hlinked]; rfl)
  have hsent : (s.commitTick.emitAll s.t).seamOut = s.seamOut := by
    simp [State.emitAll_seamOut, h]
  rw [State.tickBody_frame, hedges, hsent]

end Unlinked

/-! ### A chain of forwarding cells (R178) -/

/-- A chain of `l` forwarding cells whose first pin carries `v`, `j` ticks after it was steady at `w`: the cells the value has
reached hold `v`, the others `w`. The first cell has waited `δ` ticks for its parity. -/
structure State.ChainFront (c : Nat → Coord) (p d : Nat → Dir) (n : VarName) (b : Nat) (w v : Bool) (l δ j : Nat)
    (s : State) : Prop where
  cells : ∀ k, k < l → inRegion s.params (c k) = true ∧ s.lutAt (c k) (d k) = fwd (p k)
  joined : ∀ k, k + 1 < l → (c (k + 1)).adjacent (c k) = true ∧ s.srcAt (c (k + 1)) (p (k + 1)) = .cell (c k) (d k)
  first : s.srcAt (c 0) (p 0) = .input n b
  driven : (s.inValue n).getLsbD b = v
  phase : ((c 0).parity + δ + s.t + j) % 2 = 0
  waits : δ ≤ 1
  outputs : ∀ k, k < l → s.outAt (c k) (d k) = if k + δ < j then v else w

namespace State.ChainFront

variable {c : Nat → Coord} {p d : Nat → Dir} {n : VarName} {b : Nat} {w v : Bool} {l δ j : Nat} {s : State}

/-- Along a chain the parities alternate (00_scope.md R12). -/
theorem parity (h : s.ChainFront c p d n b w v l δ j) {k : Nat} (hk : k < l) : (c k).parity = ((c 0).parity + k) % 2 := by
  induction k with
  | zero => exact (Nat.mod_eq_of_lt (Nat.lt_succ_of_le (c 0).parity_le)).symm
  | succ k ih =>
    have hflip := Coord.adjacent_parity (h.joined k hk).1
    have hbefore := ih (Nat.lt_of_succ_lt hk)
    omega

/-- The value of the pin a cell of the chain forwards: `v` at the first cell, and elsewhere the output of the cell before. -/
theorem resolve (h : s.ChainFront c p d n b w v l δ j) {k : Nat} (hk : k < l) :
    s.resolve (s.srcAt (c k) (p k)) = if k + δ < j + 1 ∨ k = 0 then v else w := by
  cases k with
  | zero => rw [h.first, if_pos (.inr rfl), ← h.driven]; rfl
  | succ k =>
    have hk' : k < l := Nat.lt_of_succ_lt hk
    rw [(h.joined k hk).2, State.resolve_cell_inRegion (h.cells k hk').1, h.outputs k hk']
    simp only [Nat.add_right_comm k 1 δ, Nat.add_lt_add_iff_right, Nat.succ_ne_zero, or_false]

/-- A tick moves the front by one cell where that cell has the tick's parity, and the count by one. -/
theorem tickBody (h : s.ChainFront c p d n b w v l δ j) : s.tickBody.ChainFront c p d n b w v l δ (j + 1) where
  cells := by simpa using h.cells
  joined := by simpa using h.joined
  first := by simpa using h.first
  driven := by simpa using h.driven
  phase := by
    have hphase := h.phase
    rw [State.tickBody_t]
    omega
  waits := h.waits
  outputs k hk := by
    obtain ⟨hregion, hfwd⟩ := h.cells k hk
    have hparity := h.parity hk
    have hphase := h.phase
    have hwaits := h.waits
    by_cases hq : (c k).parity = s.t % 2
    · rw [State.tickBody_outAt_fwd hregion hq hfwd, h.resolve hk]
      exact if_congr (by omega) rfl rfl
    · rw [State.tickBody_outAt_held hregion hq, h.outputs k hk]
      exact if_congr (by omega) rfl rfl

theorem iterate (h : s.ChainFront c p d n b w v l δ 0) (m : Nat) :
    (State.tickBody^[m] s).ChainFront c p d n b w v l δ m := by
  induction m with
  | zero => exact h
  | succ m ih => rw [Function.iterate_succ_apply']; exact ih.tickBody

/-- The last cell holds the value from tick `l + δ` on and not before. -/
theorem last_iff (h : s.ChainFront c p d n b w v l δ j) (hl : 1 ≤ l) (hvw : v ≠ w) :
    s.outAt (c (l - 1)) (d (l - 1)) = v ↔ l + δ ≤ j := by
  rw [h.outputs (l - 1) (by omega)]
  split
  · exact iff_of_true rfl (by omega)
  · exact iff_of_false hvw.symm (by omega)

end State.ChainFront

/-- Settles O28: the front of `State.ChainFront` is at cell `m − δ` after `m` ticks. -/
theorem routeChainTiming : Obligations.RouteChainTiming := by
  intro s l c p d n b w v hl hcells hjoined hfirst hdriven hvw hsteady
  have hparity := (c 0).parity_le
  have hstart : s.ChainFront c p d n b w v l (if (c 0).parity = s.t % 2 then 0 else 1) 0 :=
    ⟨hcells, hjoined, hfirst, hdriven, by split <;> omega, by split <;> omega, by simpa using hsteady⟩
  have hlast := fun m => (hstart.iterate m).last_iff hl hvw
  refine ⟨fun m hfree => ⟨_, hfree.runTicks, hlast m⟩,
    fun ht cycles hfree => ⟨_, hfree.runTicks, fun hq => ?even, fun hq => ?odd⟩⟩
  case even => rw [hlast, if_pos (by omega)]; omega
  case odd => rw [hlast, if_neg (by omega)]; omega

/-! ### A ring of an inverter and a forwarding cell (R186) -/

/-- Cell `a` inverts what it reads of `b`, cell `b` forwards what it reads of `a`, and `a` moves in the next tick. -/
structure State.InverterRing (a b : Coord) (pa pb da db : Dir) (s : State) : Prop where
  inverterRegion : inRegion s.params a = true
  forwarderRegion : inRegion s.params b = true
  adjacent : a.adjacent b = true
  inverter : s.lutAt a da = tableOf fun idx => !idx.getLsbD pa.code
  inverterPin : s.srcAt a pa = .cell b db
  forwarder : s.lutAt b db = fwd pb
  forwarderPin : s.srcAt b pb = .cell a da
  turn : a.parity = s.t % 2

namespace State.InverterRing

variable {a b : Coord} {pa pb da db : Dir} {s : State}

/-- The first tick moves the inverter to the complement of the forwarder, which holds. -/
theorem outputs_tick (h : s.InverterRing a b pa pb da db) :
    s.tickBody.outAt a da = !s.outAt b db ∧ s.tickBody.outAt b db = s.outAt b db := by
  have hturn := h.turn
  have hflip := Coord.adjacent_parity h.adjacent
  have hle := b.parity_le
  refine ⟨?_, State.tickBody_outAt_held h.forwarderRegion (by omega) db⟩
  rw [State.tickBody_outAt_tableOf h.inverterRegion h.turn h.inverter, State.lutIndex_bit, h.inverterPin,
    State.resolve_cell_inRegion h.forwarderRegion]

/-- The second tick moves the forwarder to the inverter, which holds: two ticks put the complement in both. -/
theorem outputs_twoTicks (h : s.InverterRing a b pa pb da db) :
    s.tickBody.tickBody.outAt a da = !s.outAt b db ∧ s.tickBody.tickBody.outAt b db = !s.outAt b db := by
  have hturn := h.turn
  have hflip := Coord.adjacent_parity h.adjacent
  have hle := b.parity_le
  have hq : b.parity = s.tickBody.t % 2 := by rw [State.tickBody_t]; omega
  have hregion : inRegion s.tickBody.params b = true := by simpa using h.forwarderRegion
  constructor
  · rw [State.tickBody_outAt_held (by simpa using h.inverterRegion) (by omega), h.outputs_tick.1]
  · rw [State.tickBody_outAt_fwd hregion hq (by simpa using h.forwarder), State.tickBody_srcAt, h.forwarderPin,
      State.resolve_cell_inRegion (by simpa using h.inverterRegion), h.outputs_tick.1]

theorem twoTicks (h : s.InverterRing a b pa pb da db) : s.tickBody.tickBody.InverterRing a b pa pb da db where
  inverterRegion := by simpa using h.inverterRegion
  forwarderRegion := by simpa using h.forwarderRegion
  adjacent := h.adjacent
  inverter := by simpa using h.inverter
  inverterPin := by simpa using h.inverterPin
  forwarder := by simpa using h.forwarder
  forwarderPin := by simpa using h.forwarderPin
  turn := by
    have hturn := h.turn
    simp only [State.tickBody_t]
    omega

end State.InverterRing

/-- Settles O30: two ticks put the complement in both cells and leave a ring, so the next two put the first value back. -/
theorem inverterRingPeriodFour : Obligations.InverterRingPeriodFour := by
  intro s a b pa pb da db hfree ha hb hab hinv hpa hfwd hpb hturn
  have hring : s.InverterRing a b pa pb da db := ⟨ha, hb, hab, hinv, hpa, hfwd, hpb, hturn⟩
  have htwo : s.runsFree 2 := ⟨hfree.1, (by decide : 2 ≤ 4).trans hfree.2.1, hfree.2.2⟩
  obtain ⟨hua, hub⟩ := hring.outputs_twoTicks
  obtain ⟨hta, htb⟩ := hring.twoTicks.outputs_twoTicks
  refine ⟨_, _, htwo.runTicks, hfree.runTicks, hua, hub, ?_, ?_⟩
  · exact hta.trans (by rw [hub, Bool.not_not])
  · exact htb.trans (by rw [hub, Bool.not_not])

end Sys2Proof.Machine
end

section
/-!
PROOFS. The propagation bound (41_tick.md R177). Two tiles of one configuration that agree on the cells of `D 0` agree after `m`
ticks on the cells of `D m`, for every family `D` of cell sets that loses one grid step per tick.
-/

namespace Sys2Proof

theorem Coord.dist_self (c : Coord) : c.dist c = 0 := by simp [Coord.dist]

namespace Machine

/-- Two tiles with one region, one seam state, the same tables, selectors and tick count and no linked edge, whose cells read
grid-adjacent cells only; the committed outputs and the input registers may differ. -/
structure State.Alongside (s s' : State) : Prop where
  params : s'.params = s.params
  lut : s'.lut = s.lut
  src : s'.src = s.src
  edges : s'.edges = s.edges
  t : s'.t = s.t
  unlinked : ∀ e, (s.edge e).linked = false
  adjacent : ∀ c pin c' out, inRegion s.params c = true → s.srcAt c pin = .cell c' out → c.adjacent c' = true

namespace State.Alongside

variable {s s' : State}

theorem unlinked' (h : s.Alongside s') (e : Dir) : (s'.edge e).linked = false := by
  rw [State.edge, h.edges]
  exact h.unlinked e

theorem srcAt (h : s.Alongside s') (c : Coord) (pin : Dir) : s'.srcAt c pin = s.srcAt c pin := by
  rw [State.srcAt, h.src, h.params, State.srcAt]

theorem lutAt (h : s.Alongside s') (c : Coord) (d : Dir) : s'.lutAt c d = s.lutAt c d := by
  rw [State.lutAt, h.lut, h.params, State.lutAt]

/-- A seam read is the same in both tiles. -/
theorem seamValue (h : s.Alongside s') (c : Coord) (out : Dir) : s'.seamValue c out = s.seamValue c out := by
  simp only [State.seamValue, State.edge, h.params, h.edges]

/-- A tick keeps the two tiles of one configuration, with no linked edge. -/
theorem tickBody (h : s.Alongside s') : s.tickBody.Alongside s'.tickBody := by
  rw [State.tickBody_of_unlinked h.unlinked, State.tickBody_of_unlinked h.unlinked']
  exact ⟨h.params, h.lut, h.src, h.edges, congrArg (· + 1) h.t, h.unlinked, h.adjacent⟩

/-- A pin reads the same value where the outputs of adjacent cells and the input bits it can name agree. -/
theorem resolve_srcAt (h : s.Alongside s') {c : Coord} (hc : inRegion s.params c = true) {pin : Dir}
    (hnear : ∀ c', inRegion s.params c' = true → c.adjacent c' = true → s'.curAt c' = s.curAt c')
    (hins : ∀ n b, s.srcAt c pin = .input n b → (s'.inValue n).getLsbD b = (s.inValue n).getLsbD b) :
    s'.resolve (s.srcAt c pin) = s.resolve (s.srcAt c pin) := by
  cases hsrc : s.srcAt c pin with
  | unwired => rfl
  | const v => rfl
  | input n b => exact hins n b hsrc
  | cell c' out =>
    have hadj := h.adjacent c pin c' out hc hsrc
    simp only [State.resolve, h.params, h.seamValue, State.outAt]
    split
    · next hc' => rw [hnear c' hc' hadj]
    · rfl

/-- One tick: a cell that agrees, with its adjacent cells and the input bits it reads, agrees afterwards. -/
theorem tickBody_curAt (h : s.Alongside s') {c : Coord} (hc : inRegion s.params c = true) (hself : s'.curAt c = s.curAt c)
    (hnear : ∀ c', inRegion s.params c' = true → c.adjacent c' = true → s'.curAt c' = s.curAt c')
    (hins : ∀ pin n b, s.srcAt c pin = .input n b → (s'.inValue n).getLsbD b = (s.inValue n).getLsbD b) :
    s'.tickBody.curAt c = s.tickBody.curAt c := by
  have hindex : s'.lutIndex c = s.lutIndex c := by
    simp only [State.lutIndex, h.srcAt, h.resolve_srcAt hc hnear (hins _)]
  rw [s'.tickBody_curAt (h.params ▸ hc), s.tickBody_curAt hc]
  simp only [State.nextOutputs, State.cellOutputs, h.t, h.lutAt, hindex, hself]

/-- Any number of ticks, for cell sets `D m` that lose one grid step per tick and the readers of an input bit that differs. -/
theorem iterate_curAt (h : s.Alongside s') {D : Nat → Coord → Prop}
    (hstart : ∀ c, inRegion s.params c = true → D 0 c → s'.curAt c = s.curAt c)
    (hstep : ∀ m c c', D (m + 1) c → c.dist c' ≤ 1 → D m c')
    (hins : ∀ m c pin n b, inRegion s.params c = true → D (m + 1) c → s.srcAt c pin = .input n b →
      (s'.inValue n).getLsbD b = (s.inValue n).getLsbD b)
    (m : Nat) {c : Coord} (hc : inRegion s.params c = true) (hD : D m c) :
    (State.tickBody^[m] s').curAt c = (State.tickBody^[m] s).curAt c := by
  induction m generalizing s s' D with
  | zero => exact hstart c hc hD
  | succ m ih =>
    rw [Function.iterate_succ_apply, Function.iterate_succ_apply]
    refine ih h.tickBody (D := fun k => D (k + 1)) (fun c₁ hc₁ hD₁ => ?_) (fun k => hstep (k + 1)) ?_ (by simpa using hc) hD
    · have hc₁ : inRegion s.params c₁ = true := by simpa using hc₁
      exact h.tickBody_curAt hc₁ (hstart c₁ hc₁ (hstep 0 c₁ c₁ hD₁ (by simp [Coord.dist_self])))
        (fun c₂ hc₂ hadj => hstart c₂ hc₂ (hstep 0 c₁ c₂ hD₁ (Coord.adjacent_dist hadj).le))
        fun pin n b => hins 0 c₁ pin n b hc₁ hD₁
    · simpa using fun k => hins (k + 1)

end State.Alongside

/-- A sound tile's cells read adjacent cells only (40_lut_eval.md R147). -/
theorem State.Inv.adjacent_of_srcAt {s : State} (h : s.Inv) {c c' : Coord} {pin out : Dir}
    (hc : inRegion s.params c = true) (hsrc : s.srcAt c pin = .cell c' out) : c.adjacent c' = true := by
  have hfits := h.sources c pin hc
  rw [hsrc, State.sourceFits, Bool.and_eq_true] at hfits
  exact hfits.2

/-- The cells at least `m` steps from every cell that reads an input bit in which the two tiles differ. -/
def State.FarFromReaders (s s' : State) (m : Nat) (c : Coord) : Prop :=
  ∀ r pin n b, inRegion s.params r = true → s.srcAt r pin = .input n b →
    (s.inValue n).getLsbD b ≠ (s'.inValue n).getLsbD b → m ≤ r.dist c

/-- A cell that is far from every such reader is none. -/
theorem State.FarFromReaders.inputs_eq {s s' : State} {m : Nat} {c : Coord} {pin : Dir} {n : VarName} {b : Nat}
    (h : s.FarFromReaders s' (m + 1) c) (hc : inRegion s.params c = true) (hsrc : s.srcAt c pin = .input n b) :
    (s'.inValue n).getLsbD b = (s.inValue n).getLsbD b := by
  by_contra hne
  have hself := h c pin n b hc hsrc (Ne.symm hne)
  rw [Coord.dist_self] at hself
  omega

/-- Settles O29: `D m` is the cells more than `m` steps from the cell whose outputs differ, and the cells at least `m` steps from
every reader of an input bit that differs. -/
theorem signalsMoveOneStepPerTick : Obligations.SignalsMoveOneStepPerTick := by
  refine ⟨fun s cur c₀ m hinv hfree hcur => ?outputs, fun s ins m hinv hfree => ?inputs⟩
  case outputs =>
    have hside : s.Alongside { s with cur := cur } :=
      ⟨rfl, rfl, rfl, rfl, rfl, hfree.2.2, fun _ _ _ _ => hinv.adjacent_of_srcAt⟩
    have hfree' : State.runsFree { s with cur := cur } m := hfree
    refine ⟨_, _, hfree.runTicks, hfree'.runTicks, fun c => ?_⟩
    refine hside.iterate_curAt (D := fun m c => m < c₀.dist c) (fun c hc hfar => hcur c hc ?_)
      (fun m c c' hfar hnear => ?_) (fun _ _ _ _ _ _ _ _ => rfl) m
    · rintro rfl
      exact absurd hfar (by simp [Coord.dist_self])
    · have htriangle := Coord.dist_triangle c₀ c' c
      rw [Coord.dist_comm c' c] at htriangle
      omega
  case inputs =>
    have hside : s.Alongside { s with ins := ins } :=
      ⟨rfl, rfl, rfl, rfl, rfl, hfree.2.2, fun _ _ _ _ => hinv.adjacent_of_srcAt⟩
    have hfree' : State.runsFree { s with ins := ins } m := hfree
    refine ⟨_, _, hfree.runTicks, hfree'.runTicks, fun c => ?_⟩
    refine hside.iterate_curAt (D := s.FarFromReaders { s with ins := ins }) (fun _ _ _ => rfl)
      (fun m c c' hfar hnear r pin n b hr hsrc hne => ?_) (fun m c pin n b hc hfar => hfar.inputs_eq hc) m
    have htriangle := Coord.dist_triangle r c' c
    have hreader := hfar r pin n b hr hsrc hne
    rw [Coord.dist_comm c' c] at htriangle
    omega

end Machine

end Sys2Proof
end

section
/-!
PROOFS. EVALUATE_VECTOR (41_tick.md R179) as a run of commands: the SET_INPUTS commands write what one list of entries would, and
the STEP commands run as many ticks as one STEP of their sum would, however the lists and counts are split (log 33).
-/

namespace Sys2Proof.Machine

/-! ### Commands between STEPs -/

/-- Between STEPs, with a session and no linked edge: every command is taken, and no tick waits. -/
structure State.FreeInSession (s : State) : Prop where
  ready : s.readyInSession
  unlinked : ∀ e, (s.edge e).linked = false

/-- A command that leaves no ticks to run is its `exec`. -/
theorem runCommand_of_exec {i : Instr} {s t : State} (h : exec i s = .next t) (hp : t.pending = 0) :
    runCommand i s = .next t := by
  rw [runCommand, h]
  dsimp only
  rw [hp]
  rfl

theorem runCommands_cons {i : Instr} {s u : State} (h : runCommand i s = .next u) (is : List Instr) :
    runCommands (i :: is) s = runCommands is u := by
  rw [runCommands, h]

/-! ### SET_INPUTS (43_host_commands.md R253) -/

/-- The entries of a list written in their order. -/
def State.writeEntries (s : State) (es : List TlvEntry) : State := es.foldl (fun s t => s.writeInput t.name t.value) s

section Inputs

variable {s : State} {n : VarName} {w : Nat}

theorem State.writeEntries_cons (t : TlvEntry) (es : List TlvEntry) :
    s.writeEntries (t :: es) = (s.writeInput t.name t.value).writeEntries es := rfl

theorem State.writeEntries_append (es fs : List TlvEntry) : s.writeEntries (es ++ fs) = (s.writeEntries es).writeEntries fs :=
  List.foldl_append

theorem State.writeEntries_frame (es : List TlvEntry) : s.writeEntries es = { s with ins := (s.writeEntries es).ins } := by
  obtain ⟨ins, hins⟩ := s.writeInputs_frame es
  rw [State.writeEntries, hins]

@[simp] theorem State.writeEntries_inWidth (es : List TlvEntry) (n : VarName) :
    (s.writeEntries es).inWidth n = s.inWidth n := by
  rw [State.writeEntries_frame]
  rfl

theorem State.FreeInSession.writeEntries (h : s.FreeInSession) (es : List TlvEntry) : (s.writeEntries es).FreeInSession := by
  rw [State.writeEntries_frame]
  exact ⟨h.ready, h.unlinked⟩

theorem exec_setInputs_declared (h : s.readyInSession) (seq : BitVec 16) {es : List TlvEntry}
    (hes : ∀ t ∈ es, s.inWidth t.name ≠ none) : exec (.setInputs seq es) s = .next (s.writeEntries es) := by
  rw [exec, execSetInputs, State.command_ready h, if_neg]
  · rfl
  · simpa [List.any_eq_true] using hes

/-- SET_INPUTS commands in a row write their entries in one row. -/
theorem runCommands_setInputs (h : s.FreeInSession) (seq : BitVec 16) {chunks : List (List TlvEntry)}
    (hes : ∀ es ∈ chunks, ∀ t ∈ es, s.inWidth t.name ≠ none) :
    runCommands (numbered seq (chunks.map fun es seq => .setInputs seq es)) s = .next (s.writeEntries chunks.flatten) := by
  induction chunks generalizing s seq with
  | nil => rfl
  | cons es chunks ih =>
    have hdecl := List.forall_mem_cons.1 hes
    have hfree := h.writeEntries es
    rw [List.map_cons, numbered, List.flatten_cons, State.writeEntries_append,
      runCommands_cons (runCommand_of_exec (exec_setInputs_declared h.ready seq hdecl.1) hfree.ready.1.2)]
    exact ih hfree (seq + 1) (by simpa using hdecl.2)

theorem State.lookupName_writeInput_self (hw : s.inWidth n = some w) (hn : n ∈ s.ins.map Prod.fst) (v : BitVec 64) :
    lookupName n (s.writeInput n v).ins = some (BitVec.ofNat 64 (v.toNat % 2 ^ w)) := by
  simp only [State.writeInput, hw, lookupName_updateName, (lookupName_isSome n s.ins).2 hn, and_self, if_true]

theorem State.lookupName_writeInput_ne {m : VarName} (h : n ≠ m) (v : BitVec 64) :
    lookupName n (s.writeInput m v).ins = lookupName n s.ins := by
  unfold State.writeInput
  split
  · rw [lookupName_updateName, if_neg fun hm => h hm.1]
  · rfl

/-- Entries whose value is a function of their name leave that value in each register they name, whatever their order. -/
theorem State.lookupName_writeEntries {values : VarName → BitVec 64} {es : List TlvEntry}
    (hvalues : ∀ t ∈ es, t.value = values t.name) (hw : s.inWidth n = some w) (hn : n ∈ s.ins.map Prod.fst)
    (hnamed : n ∈ es.map TlvEntry.name ∨ lookupName n s.ins = some (BitVec.ofNat 64 ((values n).toNat % 2 ^ w))) :
    lookupName n (s.writeEntries es).ins = some (BitVec.ofNat 64 ((values n).toNat % 2 ^ w)) := by
  induction es generalizing s with
  | nil => exact hnamed.resolve_left List.not_mem_nil
  | cons t es ih =>
    obtain ⟨ht, hrest⟩ := List.forall_mem_cons.1 hvalues
    rw [State.writeEntries_cons]
    refine ih hrest (by rw [State.writeInput_eq]; exact hw) (by rw [State.writeInput_names]; exact hn) ?_
    by_cases hname : n = t.name
    · subst hname
      exact .inr (by rw [State.lookupName_writeInput_self hw hn, ht])
    · rw [State.lookupName_writeInput_ne hname]
      exact hnamed.imp_left fun hmem => (List.mem_cons.1 hmem).resolve_left hname

end Inputs

/-! ### A list of entries in frames of at most 248 (log 33) -/

/-- The entries of each SET_INPUTS of `inputCommands`. -/
def inputChunks (entries : List TlvEntry) : List (List TlvEntry) :=
  (List.range ((entries.length + (inputsPerCommand - 1)) / inputsPerCommand)).map fun i =>
    (entries.drop (inputsPerCommand * i)).take inputsPerCommand

theorem inputCommands_eq (entries : List TlvEntry) :
    inputCommands entries = (inputChunks entries).map fun es seq => .setInputs seq es := by
  rw [inputChunks, List.map_map]
  rfl

/-- Pieces of one length in a row are the beginning of the list. -/
theorem flatten_pieces {α : Type} (l : List α) (k n : Nat) :
    ((List.range n).map fun i => (l.drop (k * i)).take k).flatten = l.take (k * n) := by
  induction n with
  | zero => simp
  | succ n ih => rw [List.range_succ, List.map_append, List.flatten_append, ih, Nat.mul_succ, List.take_add]; simp

theorem inputChunks_flatten (entries : List TlvEntry) : (inputChunks entries).flatten = entries := by
  rw [inputChunks, flatten_pieces, List.take_of_length_le]
  simp only [inputsPerCommand]
  omega

/-- A chunk is not empty, holds at most 248 entries, and each of them is an entry of the list. -/
theorem mem_inputChunks {entries es : List TlvEntry} (h : es ∈ inputChunks entries) :
    es ≠ [] ∧ es.length ≤ inputsPerCommand ∧ ∀ t ∈ es, t ∈ entries := by
  obtain ⟨i, hi, rfl⟩ := List.mem_map.1 h
  rw [List.mem_range] at hi
  refine ⟨fun hnil => ?_, List.length_take_le .., fun t ht => List.mem_of_mem_drop (List.mem_of_mem_take ht)⟩
  have hlength := congrArg List.length hnil
  simp only [List.length_take, List.length_drop, List.length_nil, inputsPerCommand] at hlength hi
  omega

/-- 248 entries of the longest names fit a payload (30_encoding.md R110, R113). -/
theorem setInputs_wf {seq : BitVec 16} {es : List TlvEntry} (hne : es ≠ []) (hlength : es.length ≤ inputsPerCommand)
    (hnames : ∀ t ∈ es, nameOk t.name = true) : (Instr.setInputs seq es).wf = true := by
  have hsum : (es.map fun t => 9 + t.name.length).sum ≤ es.length * (9 + 255) := by
    refine (List.sum_le_card_nsmul _ _ fun x hx => ?_).trans (by rw [List.length_map, smul_eq_mul])
    obtain ⟨t, ht, rfl⟩ := List.mem_map.1 hx
    exact Nat.add_le_add_left (nameOk_iff.1 (hnames t ht)).2 9
  have hfits : (es.map fun t => 9 + t.name.length).sum ≤ Config.maxPayload :=
    hsum.trans ((Nat.mul_le_mul_right _ hlength).trans (by decide))
  simp only [Instr.wf, entriesOk, Bool.and_eq_true, Bool.not_eq_true', List.isEmpty_eq_false_iff, List.all_eq_true,
    decide_eq_true_eq]
  exact ⟨hne, hnames, hfits⟩

/-! ### STEP (43_host_commands.md R254) -/

/-- `s` after the `n` ticks of a STEP. -/
def State.ran (s : State) (n : Nat) : State := { State.tickBody^[n] s with pending := 0 }

section Steps

variable {s : State}

@[simp] theorem State.tickBody_session (s : State) : s.tickBody.session = s.session := by rw [State.tickBody_frame]

/-- How many ticks are pending has no part in what a tick does. -/
theorem State.tickBody_withPending (h : ∀ e, (s.edge e).linked = false) (p : Nat) :
    State.tickBody { s with pending := p } = { s.tickBody with pending := p - 1 } := by
  rw [State.tickBody_of_unlinked h, State.tickBody_of_unlinked (s := { s with pending := p }) h]
  rfl

theorem State.iterate_tickBody_withPending (h : ∀ e, (s.edge e).linked = false) (n p : Nat) :
    State.tickBody^[n] { s with pending := p } = { State.tickBody^[n] s with pending := p - n } := by
  induction n generalizing s p with
  | zero => rfl
  | succ n ih =>
    rw [Function.iterate_succ_apply, State.tickBody_withPending h, ih (by simpa using h), Function.iterate_succ_apply,
      Nat.sub_sub, Nat.add_comm 1 n]

/-- The ticks pending for a STEP of `n` with no linked edge all run, and none is left. -/
theorem runTicks_withPending (hh : s.halted = false) (h : ∀ e, (s.edge e).linked = false) (n : Nat) :
    runTicks n { s with pending := n } = .next (s.ran n) := by
  have hfree : State.runsFree { s with pending := n } n := ⟨hh, le_rfl, h⟩
  rw [hfree.runTicks, State.iterate_tickBody_withPending h, Nat.sub_self]
  rfl

namespace State.FreeInSession

theorem iterate_tickBody (h : s.FreeInSession) (n : Nat) : (State.tickBody^[n] s).halted = false ∧
    (State.tickBody^[n] s).session = true ∧ ∀ e, ((State.tickBody^[n] s).edge e).linked = false := by
  induction n with
  | zero => exact ⟨h.ready.1.1, h.ready.2, h.unlinked⟩
  | succ n ih => rw [Function.iterate_succ_apply']; simpa using ih

theorem ran (h : s.FreeInSession) (n : Nat) : (s.ran n).FreeInSession :=
  have ⟨hhalted, hsession, hunlinked⟩ := h.iterate_tickBody n
  ⟨⟨⟨hhalted, rfl⟩, hsession⟩, hunlinked⟩

theorem ran_zero (h : s.FreeInSession) : s.ran 0 = s :=
  congrArg (fun p => ({ s with pending := p } : State)) h.ready.1.2.symm

/-- Two STEPs run the ticks of their sum. -/
theorem ran_ran (h : s.FreeInSession) (m n : Nat) : (s.ran m).ran n = s.ran (m + n) := by
  rw [State.ran, State.ran, State.iterate_tickBody_withPending (h.iterate_tickBody m).2.2, State.ran, Nat.add_comm m n,
    Function.iterate_add_apply]

theorem runCommand_step (h : s.FreeInSession) (seq : BitVec 16) {n : Nat} (hn : n < 2 ^ 32) :
    runCommand (.step seq (BitVec.ofNat 32 n)) s = .next (s.ran n) := by
  have hexec : exec (.step seq (BitVec.ofNat 32 n)) s = .next { s with pending := n } := by
    rw [exec, execStep, State.command_ready h.ready, BitVec.toNat_ofNat, Nat.mod_eq_of_lt hn]
  rw [runCommand, hexec]
  exact runTicks_withPending h.ready.1.1 h.unlinked n

/-- STEP commands in a row run the ticks of their sum. -/
theorem runCommands_steps (h : s.FreeInSession) (seq : BitVec 16) {counts : List Nat} (hcounts : ∀ n ∈ counts, n < 2 ^ 32) :
    runCommands (numbered seq (counts.map fun n seq => .step seq (BitVec.ofNat 32 n))) s = .next (s.ran counts.sum) := by
  induction counts generalizing s seq with
  | nil => exact congrArg _ h.ran_zero.symm
  | cons n counts ih =>
    obtain ⟨hn, hrest⟩ := List.forall_mem_cons.1 hcounts
    rw [List.map_cons, numbered, runCommands_cons (h.runCommand_step seq hn), ih (h.ran n) _ hrest, h.ran_ran, List.sum_cons]

end State.FreeInSession

/-- The tick count of each STEP of `stepCommands`. -/
def stepCounts (n : Nat) : List Nat := List.replicate (n / longestStep) longestStep ++ [n % longestStep]

theorem stepCommands_eq (n : Nat) : stepCommands n = (stepCounts n).map fun k seq => .step seq (BitVec.ofNat 32 k) := by
  simp [stepCommands, stepCounts]

theorem stepCounts_sum (n : Nat) : (stepCounts n).sum = n := by
  simp [stepCounts, Nat.div_add_mod']

theorem lt_of_mem_stepCounts {n k : Nat} (h : k ∈ stepCounts n) : k < 2 ^ 32 := by
  rcases List.mem_append.1 h with h | h
  · rw [List.eq_of_mem_replicate h]
    decide
  · rw [List.mem_singleton.1 h]
    exact (Nat.mod_lt _ (by decide)).trans (by decide : longestStep < 2 ^ 32)

end Steps

/-! ### GET_OUTPUTS (43_host_commands.md R255) -/

/-- GET_OUTPUTS changes what was sent only, so it starts no ticks. -/
theorem exec_getOutputs_pending (s : State) (seq : BitVec 16) (sel : List TlvEntry) :
    ∃ t, exec (.getOutputs seq sel) s = .next t ∧ t.pending = s.pending := by
  refine ⟨_, rfl, ?_⟩
  rcases s.command_cases seq _ with h | ⟨_, _, h⟩ | ⟨_, h⟩ <;> rw [h]
  · rfl
  · dsimp only
    split_ifs <;> rfl

/-! ### EVALUATE_VECTOR -/

section Vector

variable {s : State} (values : VarName → BitVec 64)

theorem evaluateVector_eq (seq : BitVec 16) (values : VarName → BitVec 64) (s : State) : ∃ seq₁ last,
    evaluateVector seq values s = numbered seq (inputCommands (s.vectorEntries values)) ++
      numbered seq₁ (stepCommands (2 * s.latency)) ++ [.getOutputs last []] := by
  simp only [evaluateVector, numbered_append]
  exact ⟨_, _, rfl⟩

theorem State.Inv.evaluateVector_wf (h : s.Inv) (seq : BitVec 16) : ∀ i ∈ evaluateVector seq values s, i.wf = true := by
  intro i hi
  obtain ⟨cmd, hcmd, n, rfl⟩ := mem_numbered hi
  rw [inputCommands_eq, stepCommands_eq, List.mem_append, List.mem_append, List.mem_map, List.mem_map,
    List.mem_singleton] at hcmd
  rcases hcmd with (⟨es, hes, rfl⟩ | ⟨k, _, rfl⟩) | rfl
  · obtain ⟨hne, hlength, hmem⟩ := mem_inputChunks hes
    refine setInputs_wf hne hlength fun t ht => ?_
    obtain ⟨d, hd, rfl⟩ := List.mem_map.1 (hmem t ht)
    exact (h.inDecl d hd).1
  · rfl
  · rfl

/-- Every entry of the vector names a declared input. -/
theorem State.inWidth_of_mem_vectorEntries {t : TlvEntry} (h : t ∈ s.vectorEntries values) : s.inWidth t.name ≠ none := by
  obtain ⟨d, hd, rfl⟩ := List.mem_map.1 h
  exact Option.isSome_iff_ne_none.1 ((lookupName_isSome d.1 s.inDecl).2 (List.mem_map_of_mem hd))

/-- After the vector's entries every declared input holds its value modulo two to its width. -/
theorem State.Inv.lookupName_vectorEntries (h : s.Inv) {n : VarName} {w : Nat} (hw : s.inWidth n = some w) :
    lookupName n (s.writeEntries (s.vectorEntries values)).ins = some (BitVec.ofNat 64 ((values n).toNat % 2 ^ w)) := by
  have hdecl : n ∈ s.inDecl.map Prod.fst := List.mem_map_of_mem (lookupName_mem hw)
  refine State.lookupName_writeEntries (fun t ht => ?_) hw (h.inputs ▸ hdecl) (.inl ?_)
  · obtain ⟨d, _, rfl⟩ := List.mem_map.1 ht
    rfl
  · simpa [State.vectorEntries] using hdecl

end Vector

/-- Settles O27: the commands before GET_OUTPUTS write the vector's entries and run `2 · latency` ticks. -/
theorem vectorEvaluationRunsItsCycles : Obligations.VectorEvaluationRunsItsCycles := by
  intro s seq values hinv hready hunlinked
  have hfree : s.FreeInSession := ⟨hready, hunlinked⟩
  have hset := hfree.writeEntries (s.vectorEntries values)
  have hwritten := s.writeEntries_frame (s.vectorEntries values)
  obtain ⟨seq₁, last, hcmds⟩ := evaluateVector_eq seq values s
  obtain ⟨t, hget, hpending⟩ :=
    exec_getOutputs_pending ((s.writeEntries (s.vectorEntries values)).ran (2 * s.latency)) last []
  refine ⟨hinv.evaluateVector_wf values seq, (s.writeEntries (s.vectorEntries values)).ins, _, t, last,
    (hinv.writeInputs _).inputs.trans ?names, fun n w => hinv.lookupName_vectorEntries values, ?ticks, ?count, rfl, ?last, hget,
    ?commands⟩
  case names => rw [← State.writeEntries, hwritten]
  case ticks =>
    have hrun := runTicks_withPending hset.ready.1.1 hset.unlinked (2 * s.latency)
    rw [hwritten] at hrun ⊢
    exact hrun
  case count =>
    rw [hwritten]
    exact State.iterate_tickBody_t ..
  case last => rw [hcmds, List.getLast?_concat]
  case commands =>
    rw [hcmds, inputCommands_eq, stepCommands_eq, List.append_assoc, runCommands_append (runCommands_setInputs hfree seq ?_),
      inputChunks_flatten, runCommands_append (hset.runCommands_steps seq₁ fun _ => lt_of_mem_stepCounts), stepCounts_sum,
      runCommands_cons (runCommand_of_exec hget hpending)]
    · rfl
    · exact fun es hes t ht => State.inWidth_of_mem_vectorEntries values ((mem_inputChunks hes).2.2 t ht)

end Sys2Proof.Machine
end

section
/-!
PROOFS. The lanes of a tile's edges (42_seam_barrier.md R202, R203): the parities of a lane's two cells, how many lanes a parity has,
and the one lane a seam coordinate names; and what SEAM_READ reads there (R220).
-/

namespace Sys2Proof

@[simp] theorem Dir.opp_opp (d : Dir) : d.opp.opp = d := by cases d <;> rfl

/-- Grid-adjacent coordinates are one step apart (00_scope.md R11, 20_memory.md R62). -/
theorem Coord.exists_step_of_adjacent {c c' : Coord} (h : c.adjacent c' = true) : ∃ d, c' = c.step d := by
  obtain ⟨x, y⟩ := c
  obtain ⟨x', y'⟩ := c'
  simp only [Coord.adjacent, decide_eq_true_eq] at h
  have hcases : (x' = x ∧ y' = y - 1) ∨ (x' = x + 1 ∧ y' = y) ∨ (x' = x ∧ y' = y + 1) ∨ (x' = x - 1 ∧ y' = y) := by omega
  rcases hcases with ⟨rfl, rfl⟩ | ⟨rfl, rfl⟩ | ⟨rfl, rfl⟩ | ⟨rfl, rfl⟩
  · exact ⟨.north, rfl⟩
  · exact ⟨.east, rfl⟩
  · exact ⟨.south, rfl⟩
  · exact ⟨.west, rfl⟩

/-- Half of the numbers below an even number have a given parity. -/
theorem length_filter_range_mod_two {q : Nat} (hq : q ≤ 1) (m : Nat) :
    ((List.range (2 * m)).filter fun k => decide (k % 2 = q)).length = m := by
  induction m with
  | zero => rfl
  | succ m ih =>
    have heven : 2 * m % 2 = 0 := Nat.mul_mod_right 2 m
    have hodd : (2 * m + 1) % 2 = 1 := by omega
    rw [Nat.mul_succ, List.range_succ, List.range_succ, List.filter_append, List.filter_append, List.length_append,
      List.length_append, ih]
    interval_cases q <;> simp [heven, hodd]

namespace Machine

variable {p : Params} {e : Dir} {k : Nat}

/-! ### The geometry of an admitted tile (00_scope.md R7, 42_seam_barrier.md R201) -/

/-- The tile is even in both directions, starts at an even coordinate and lies inside its grid. -/
structure EvenTile (p : Params) : Prop where
  width : p.tileW % 2 = 0 ∧ 2 ≤ p.tileW ∧ p.tileW ≤ 65534
  height : p.tileH % 2 = 0 ∧ 2 ≤ p.tileH ∧ p.tileH ≤ 65534
  origin : p.originX % 2 = 0 ∧ p.originY % 2 = 0
  inside : p.originX + p.tileW ≤ p.gridW ∧ p.originY + p.tileH ≤ p.gridH

theorem evenTile_of_valid (hp : p.valid = true) : EvenTile p := by
  simp only [Params.valid, dimOk, Bool.and_eq_true, decide_eq_true_eq] at hp
  have hmax : Config.maxDimension = 65534 := rfl
  constructor <;> omega

theorem EvenTile.laneCount_even (h : EvenTile p) (e : Dir) :
    laneCount p e % 2 = 0 ∧ 2 ≤ laneCount p e ∧ laneCount p e ≤ 65534 := by
  cases e
  · exact h.width
  · exact h.height
  · exact h.width
  · exact h.height

theorem EvenTile.ecell_inRegion (h : EvenTile p) (hk : k < laneCount p e) : inRegion p (ecell p e k) = true :=
  Machine.ecell_inRegion ⟨by have := h.width; omega, by have := h.height; omega⟩ hk

theorem EvenTile.inGrid_of_inRegion (h : EvenTile p) {c : Coord} (hc : inRegion p c = true) : inGrid p c = true := by
  rw [inRegion_iff] at hc
  rw [inGrid_iff]
  have := h.inside
  omega

/-! ### Edge cells and neighbour cells (R202) -/

/-- The parity of a lane's edge cell is the lane's on the two edges at the origin, and the other on the two edges an odd distance
from it. -/
theorem EvenTile.ecell_parity (h : EvenTile p) (e : Dir) (k : Nat) :
    (ecell p e k).parity = if e = .north ∨ e = .west then k % 2 else (k + 1) % 2 := by
  obtain ⟨hw, hh, ho, _⟩ := h
  cases e <;> simp [Coord.parity, ecell] <;> omega

theorem ncell_not_inRegion (p : Params) (e : Dir) (k : Nat) : inRegion p (ncell p e k) = false := by
  rw [← Bool.not_eq_true, inRegion_iff]
  cases e <;> simp only [ncell, ecell, Coord.step] <;> omega

/-- A sender's lanes are the lanes of one parity (R206). -/
theorem EvenTile.sendLanes_eq (h : EvenTile p) (e : Dir) {q : Nat} (hq : q ≤ 1) : sendLanes p e q =
    (List.range (laneCount p e)).filter fun k => decide (k % 2 = if e = .north ∨ e = .west then q else 1 - q) := by
  refine List.filter_congr fun k _ => ?_
  rw [h.ecell_parity, decide_eq_decide]
  split <;> omega

/-- Each parity has half of the lanes. -/
theorem EvenTile.sendLanes_length (h : EvenTile p) (e : Dir) {q : Nat} (hq : q ≤ 1) :
    (sendLanes p e q).length = laneCount p e / 2 := by
  obtain ⟨heven, _⟩ := h.laneCount_even e
  have hhalf : laneCount p e = 2 * (laneCount p e / 2) := by omega
  rw [h.sendLanes_eq e hq]
  nth_rw 1 [hhalf]
  exact length_filter_range_mod_two (by split <;> omega) _

/-- A receiver's lanes of a parity are those whose edge cell has the other one. -/
theorem recvLanes_eq_sendLanes (p : Params) (e : Dir) {q : Nat} (hq : q ≤ 1) : recvLanes p e q = sendLanes p e (1 - q) := by
  refine List.filter_congr fun k _ => ?_
  have hparity := (ecell p e k).parity_le
  rw [ncell_parity, decide_eq_decide]
  omega

/-- The facing tile numbers the lanes of the shared edge the same. -/
theorem laneCount_facing {p' : Params} (h : facing p e p' = true) : laneCount p' e.opp = laneCount p e := by
  unfold facing at h
  cases e <;> simp only [Bool.and_eq_true, decide_eq_true_eq] at h <;> exact h.2.2.2

theorem ncell_facing {p' : Params} (h : facing p e p' = true) (k : Nat) : ncell p e k = ecell p' e.opp k := by
  unfold facing at h
  cases e <;> simp only [Bool.and_eq_true, decide_eq_true_eq] at h <;> obtain ⟨_, hx, hy, _⟩ := h <;>
    simp only [ncell, ecell, Coord.step, Dir.opp, Coord.mk.injEq] <;> omega

/-- Settles O31. -/
theorem lanesAndTheirParities : Obligations.LanesAndTheirParities := by
  intro p hp
  have htile := evenTile_of_valid hp
  refine ⟨decide_eq_true_iff, decide_eq_true_iff, decide_eq_true_iff, decide_eq_true_iff, fun e => ?count,
    fun e k hk => ⟨?cell, htile.ecell_parity e k, rfl, ncell_parity e k, htile.ecell_inRegion hk, ncell_not_inRegion p e k⟩,
    fun e q hq => ⟨htile.sendLanes_length e hq, recvLanes_eq_sendLanes p e hq⟩,
    fun e p' _ hfacing => ⟨laneCount_facing hfacing, fun k _ => ncell_facing hfacing k⟩⟩
  case count => cases e <;> rfl
  case cell => cases e <;> rfl

/-! ### The lane of a seam coordinate (R203) -/

/-- A cell one step from the outside is the edge cell of a lane on that side. -/
theorem exists_lane_of_step_outside {c : Coord} (hc : inRegion p c = true) (hout : inRegion p (c.step e) = false) :
    ∃ k, k < laneCount p e ∧ ecell p e k = c := by
  obtain ⟨x, y⟩ := c
  rw [inRegion_iff] at hc
  rw [← Bool.not_eq_true, inRegion_iff] at hout
  cases e <;> simp only [Coord.step] at hc hout <;> simp only [laneCount, ecell, Coord.mk.injEq]
  · exact ⟨(x - p.originX).toNat, by omega⟩
  · exact ⟨(y - p.originY).toNat, by omega⟩
  · exact ⟨(x - p.originX).toNat, by omega⟩
  · exact ⟨(y - p.originY).toNat, by omega⟩

/-- An edge with a neighbour cell inside the grid has a neighbour. -/
theorem hasNeighbour_of_inGrid (hg : inGrid p (ncell p e k) = true) : hasNeighbour p e = true := by
  rw [inGrid_iff] at hg
  cases e <;> simp only [ncell, ecell, Coord.step] at hg <;> simp only [hasNeighbour, decide_eq_true_eq] <;> omega

theorem seamLane_of_inGrid (hp : p.valid = true) (hk : k < laneCount p e) (hg : inGrid p (ncell p e k) = true) :
    seamLane p (ncell p e k) = some (e, k) :=
  seamLane_ncell hp (hasNeighbour_of_inGrid hg) hk

/-- A coordinate of the grid that lies outside the region next to one of its cells is that cell's neighbour across one lane. -/
theorem exists_lane_of_adjacent {c c' : Coord} (hc : inRegion p c = true) (hout : inRegion p c' = false)
    (hadj : c.adjacent c' = true) : ∃ e k, k < laneCount p e ∧ ecell p e k = c ∧ ncell p e k = c' := by
  obtain ⟨d, rfl⟩ := Coord.exists_step_of_adjacent hadj
  obtain ⟨k, hk, rfl⟩ := exists_lane_of_step_outside hc hout
  exact ⟨d, k, hk, rfl, rfl⟩

/-- Settles O32: two lanes with one neighbour cell are both the lane `seamLane` finds. -/
theorem seamReferencesHaveOneLane : Obligations.SeamReferencesHaveOneLane := by
  intro p c c' hp hc hout hg hadj
  obtain ⟨e, k, hk, hcell, rfl⟩ := exists_lane_of_adjacent hc hout hadj
  have hlane := seamLane_of_inGrid hp hk hg
  refine ⟨e, k, hlane, hk, hcell, rfl, fun e' k' hk' hsame => ?_⟩
  have hlane' := seamLane_of_inGrid hp hk' (hsame ▸ hg)
  rw [hsame, hlane] at hlane'
  exact Prod.mk.inj (Option.some.inj hlane'.symm)

/-! ### SEAM_READ (R220) -/

/-- Output `out` of a neighbour cell is read from its lane in the half of the cell's parity. -/
theorem State.seamValue_ncell {s : State} (hp : s.params.valid = true) (hn : hasNeighbour s.params e = true)
    (hk : k < laneCount s.params e) (out : Dir) : s.seamValue (ncell s.params e k) out =
      some (((s.edge e).half (ncell s.params e k).parity k).getLsbD out.code) := by
  simp only [State.seamValue, seamLane_ncell hp hn hk]

/-- Settles O40. -/
theorem seamReadReadsTheHalf : Obligations.SeamReadReadsTheHalf :=
  fun _ _ _ out hp hn hk => exec_seamRead (State.seamValue_ncell hp hn hk out)

end Machine

end Sys2Proof
end

section
/-!
PROOFS. One tick of a tile and the same tick of the untiled grid (42_seam_barrier.md R226). A pin of a tile's cell reads an input
register, a cell of the region, or a neighbour cell; the two machines agree on the first two, and on a neighbour cell of the parity
that is held in this tick the tile's half says what the grid's cell outputs.
-/

namespace Sys2Proof.Machine

/-- The tile `a` agrees with the untiled grid `g` on everything a tick of `a` reads: tick count, inputs, the cells of its region, and
the neighbour cells whose parity is not the tick's. -/
structure State.TileOf (a g : State) : Prop where
  tile : a.Inv
  grid : g.Inv
  t : a.t = g.t
  ins : a.ins = g.ins
  whole : ∀ c, inGrid a.params c = true → inRegion g.params c = true
  curAt : ∀ c, inRegion a.params c = true → a.curAt c = g.curAt c
  lutAt : ∀ c d, inRegion a.params c = true → a.lutAt c d = g.lutAt c d
  srcAt : ∀ c d, inRegion a.params c = true → a.srcAt c d = g.srcAt c d
  seam : ∀ e k out, hasNeighbour a.params e = true → k < laneCount a.params e → (ncell a.params e k).parity ≠ a.t % 2 →
    ((a.edge e).half (ncell a.params e k).parity k).getLsbD out.code = g.outAt (ncell a.params e k) out

namespace State.TileOf

variable {a g : State} {c : Coord}

theorem inRegion_grid (h : a.TileOf g) (hc : inRegion a.params c = true) : inRegion g.params c = true :=
  h.whole c ((evenTile_of_valid h.tile.params).inGrid_of_inRegion hc)

/-- A producer next to a cell of the tick's parity reads the same in both: from the cell, or across an edge from the half. -/
theorem resolve_cell (h : a.TileOf g) (hc : inRegion a.params c = true) (hq : c.parity = a.t % 2) {c' : Coord}
    (hg : inGrid a.params c' = true) (hadj : c.adjacent c' = true) (out : Dir) :
    a.resolve (.cell c' out) = g.resolve (.cell c' out) := by
  rw [State.resolve_cell_inRegion (h.whole c' hg)]
  cases hin : inRegion a.params c' with
  | true => rw [State.resolve_cell_inRegion hin, State.outAt, State.outAt, h.curAt c' hin]
  | false =>
    obtain ⟨e, k, hk, _, rfl⟩ := exists_lane_of_adjacent hc hin hadj
    have hn := hasNeighbour_of_inGrid hg
    have hheld : (ncell a.params e k).parity ≠ a.t % 2 := by
      have hother := Coord.adjacent_parity hadj
      have hbit := (ncell a.params e k).parity_le
      omega
    rw [State.resolve_cell_seam hin (State.seamValue_ncell h.tile.params hn hk out), h.seam e k out hn hk hheld]

/-- Every pin of a cell of the tick's parity reads the same in both. -/
theorem resolve_srcAt (h : a.TileOf g) (hc : inRegion a.params c = true) (hq : c.parity = a.t % 2) (pin : Dir) :
    a.resolve (a.srcAt c pin) = g.resolve (g.srcAt c pin) := by
  have hfits := h.tile.sources c pin hc
  rw [← h.srcAt c pin hc]
  cases hsrc : a.srcAt c pin with
  | unwired => rfl
  | const v => rfl
  | input n b => simp only [State.resolve, State.inValue, h.ins]
  | cell c' out =>
    rw [hsrc, State.sourceFits, Bool.and_eq_true] at hfits
    exact h.resolve_cell hc hq hfits.1 hfits.2 out

theorem cellOutputs (h : a.TileOf g) (hc : inRegion a.params c = true) (hq : c.parity = a.t % 2) :
    a.cellOutputs c = g.cellOutputs c := by
  have hindex : a.lutIndex c = g.lutIndex c := by simp only [State.lutIndex, h.resolve_srcAt hc hq]
  simp only [State.cellOutputs, hindex, h.lutAt c _ hc]

/-- After the tick the two agree on the region: new outputs at the tick's parity, held ones at the other. -/
theorem tickBody_curAt (h : a.TileOf g) (hc : inRegion a.params c = true) : a.tickBody.curAt c = g.tickBody.curAt c := by
  have hcg := h.inRegion_grid hc
  by_cases hq : c.parity = a.t % 2
  · rw [State.tickBody_curAt_updated hc hq, State.tickBody_curAt_updated hcg (h.t ▸ hq), h.cellOutputs hc hq]
  · rw [State.tickBody_curAt_held hc hq, State.tickBody_curAt_held hcg (h.t ▸ hq), h.curAt c hc]

end State.TileOf

/-- Settles O43: the hypotheses are `State.TileOf`, and the outputs after the tick are `State.TileOf.tickBody_curAt`. -/
theorem tileTickMatchesTheGridTick : Obligations.TileTickMatchesTheGridTick := by
  intro a g ha hg ht hins hea heg hw hh hwhole hcells hseam
  have htile : a.TileOf g :=
    { tile := ha, grid := hg, t := ht, ins := hins, seam := hseam
      whole := fun c hc => hwhole c (by simpa only [inGrid, hw, hh] using hc)
      curAt := fun c hc => (hcells c hc).1
      lutAt := fun c d hc => ((hcells c hc).2 d).1
      srcAt := fun c d hc => ((hcells c hc).2 d).2 }
  refine ⟨_, _, exec_tick_enabled hea, exec_tick_enabled heg, ?_, fun c hc => htile.tickBody_curAt hc⟩
  rw [State.tickBody_t, State.tickBody_t, ht]

end Sys2Proof.Machine
end

section
/-!
PROOFS. What a seam port sends (42_seam_barrier.md R205 to R209): the frame of a tick, read back field by field, and the retained
frames a request for retransmission finds.
-/

namespace Sys2Proof

theorem Dir.code_lt (d : Dir) : d.code < 4 := by cases d <;> decide

namespace Machine

variable {s : State} {e : Dir} {f : Nat}

/-! ### The frame of a tick (R205 to R208) -/

/-- A lane's number fits the u16 field of a lane entry (30_encoding.md R131). -/
theorem toNat_of_mem_sendLanes {p : Params} (hp : p.valid = true) {q k : Nat} (hk : k ∈ sendLanes p e q) :
    (BitVec.ofNat 16 k).toNat = k := by
  have hlane : k < laneCount p e := List.mem_range.1 (List.mem_of_mem_filter hk)
  have hcount := (evenTile_of_valid hp).laneCount_even e
  exact Nat.mod_eq_of_lt (by omega)

/-- The lane numbers of a frame are the sender's lanes of its parity (R206). -/
theorem State.frameOf_lanes (hp : s.params.valid = true) (e : Dir) (f : Nat) :
    (s.frameOf e f).lanes.map (fun l => l.lane.toNat) = sendLanes s.params e (f % 2) := by
  rw [State.frameOf, List.map_map]
  exact (List.map_congr_left fun k hk => toNat_of_mem_sendLanes hp hk).trans (List.map_id' _)

theorem State.frameOf_lanes_length (hp : s.params.valid = true) (e : Dir) (f : Nat) :
    (s.frameOf e f).lanes.length = laneCount s.params e / 2 := by
  rw [State.frameOf, List.length_map]
  exact (evenTile_of_valid hp).sendLanes_length e (by omega)

/-- A lane carries the committed outputs of its edge cell (R205). -/
theorem State.frameOf_value (hp : s.params.valid = true) {l : Lane} (hl : l ∈ (s.frameOf e f).lanes) :
    l.value = s.curAt (ecell s.params e l.lane.toNat) := by
  obtain ⟨k, hk, rfl⟩ := List.mem_map.1 hl
  rw [toNat_of_mem_sendLanes hp hk, State.laneValue]

/-- What an admitted tile sends is read back. -/
theorem State.decodeSeam_frameOf (hp : s.params.valid = true) (e : Dir) (f : Nat) :
    decodeSeam (encodeSeam (s.frameOf e f)) = some (s.frameOf e f) := by
  refine decodeSeam_encodeSeam ?_
  have hcount := (evenTile_of_valid hp).laneCount_even e
  rw [State.frameOf_lanes_length hp]
  omega

/-! ### EMIT_FRAME and RESEND (R207, R209) -/

theorem exec_emitFrame_linked (hh : s.halted = false) (hl : (s.edge e).linked = true) (f : Nat) :
    exec (.emitFrame e f) s = .next (s.emitFrame e f) := by
  simp [exec, execEmitFrame, State.emitIfLinked, hh, hl]

theorem exec_emitFrame_disabled (h : s.halted = true ∨ (s.edge e).linked = false) (f : Nat) :
    exec (.emitFrame e f) s = .next s := by
  rcases h with h | h <;> simp [exec, execEmitFrame, State.emitIfLinked, h]

/-- Settles O33: the frame is `State.frameOf`, which its bytes decode to. -/
theorem emittedFrameCarriesItsLanes : Obligations.EmittedFrameCarriesItsLanes := by
  intro s e f hp hh hl
  refine ⟨_, s.frameOf e f, exec_emitFrame_linked hh hl f, State.decodeSeam_frameOf hp e f, rfl, ?edge, ?phase, ?epoch,
    State.frameOf_lanes_length hp e f, State.frameOf_lanes hp e f, fun l hmem d => ?value⟩
  case edge => exact Nat.mod_eq_of_lt (e.code_lt.trans (by decide))
  case phase => exact Nat.mod_eq_of_lt (by omega)
  case epoch => exact BitVec.toNat_ofNat ..
  case value => rw [State.frameOf_value hp hmem, State.outAt]

theorem exec_resend_halted (hh : s.halted = true) (e : Dir) (epoch : BitVec 32) (phase : Byte) :
    exec (.resend e epoch phase) s = .next s := by
  simp [exec, execResend, hh]

/-- What RESEND of a running tile can do: send one of the retained frames that match again, or nothing where none does. -/
theorem exec_resend_cases (hh : s.halted = false) (e : Dir) (epoch : BitVec 32) (phase : Byte) :
    (∃ r ∈ (s.edge e).tx, (memRead r.2 8 4 = epoch.toNat ∧ memRead r.2 6 1 = phase.toNat) ∧
        exec (.resend e epoch phase) s = .next (s.sendSeam e r.2))
      ∨ ((∀ r ∈ (s.edge e).tx, ¬(memRead r.2 8 4 = epoch.toNat ∧ memRead r.2 6 1 = phase.toNat)) ∧
        exec (.resend e epoch phase) s = .next s) := by
  cases hfind : (s.edge e).tx.find? fun r => frameMatches epoch phase r.2 with
  | none =>
    refine .inr ⟨fun r hr => ?_, by simp [exec, execResend, hh, hfind]⟩
    simpa [frameMatches] using List.find?_eq_none.1 hfind r hr
  | some r =>
    refine .inl ⟨r, List.mem_of_find?_eq_some hfind, ?_, by simp [exec, execResend, hh, hfind]⟩
    have hmatch : frameMatches epoch phase r.2 = true := by simpa using List.find?_some hfind
    simpa [frameMatches] using hmatch

/-- Settles O34: the first retained frame that matches is sent. -/
theorem resendRepeatsARetainedFrame : Obligations.ResendRepeatsARetainedFrame := by
  intro s e
  refine ⟨exec_emitFrame_disabled, fun hh => exec_resend_halted hh e, fun hh epoch phase => ?_⟩
  rcases exec_resend_cases hh e epoch phase with ⟨r, hr, hmatch, hx⟩ | ⟨hnone, hx⟩
  · exact ⟨fun _ => ⟨r, hr, hmatch.1, hmatch.2, hx⟩, fun hnone => absurd hmatch (hnone r hr)⟩
  · exact ⟨fun ⟨r, hr, hmatch⟩ => absurd hmatch (hnone r hr), fun _ => hx⟩

end Machine

end Sys2Proof
end

section
/-!
PROOFS. What a seam port makes of delivered bytes (42_seam_barrier.md R210 to R217): the fields a decoded frame has, the expected
frame's writes to the halves, and the verdict on every other string.
-/

namespace Sys2Proof

/-! ### The fields of delivered bytes (R211) -/

theorem memRead_drop (bs : Bytes) (m off n : Nat) : memRead (bs.drop m) off n = memRead bs (m + off) n := by
  rw [memRead, List.drop_drop, memRead]

theorem toNat_getD (bs : Bytes) (i : Nat) : (bs.getD i 0).toNat = memRead bs i 1 := by
  rw [← Nat.add_zero i, ← memRead_drop, Nat.add_zero, List.getD_eq_getElem?_getD, ← List.head?_drop]
  cases bs.drop i <;> rfl

/-- The lane numbers of the entries stand three bytes apart (R131). -/
theorem decodeLanes_lanes (n : Nat) (bs : Bytes) :
    (decodeLanes n bs).map (fun l => l.lane.toNat) = (List.range n).map fun i => memRead bs (3 * i) 2 := by
  induction n generalizing bs with
  | zero => rfl
  | succ n ih =>
    rw [decodeLanes, List.map_cons, ih, List.range_succ_eq_map, List.map_cons, List.map_map]
    congr 1
    · exact Nat.mod_eq_of_lt (memRead_lt bs 0 2)
    · refine List.map_congr_left fun i _ => ?_
      rw [memRead_drop, Function.comp_apply, Nat.mul_succ, Nat.add_comm]

/-- The checks of R211 that need no tile. -/
def SeamFramed (bs : Bytes) : Prop :=
  18 ≤ bs.length ∧ bs.take 4 = Config.seamMagic ∧ bs.length = 18 + 3 * memRead bs 12 2 ∧
    memRead bs (14 + 3 * memRead bs 12 2) 4 = (crc32 ((bs.drop 4).take (10 + 3 * memRead bs 12 2))).toNat ∧
    memRead bs 4 1 = 1

/-- The fields of a seam frame at their offsets (R130). -/
def seamFields (bs : Bytes) : SeamFrame :=
  ⟨bs.getD 5 0, bs.getD 6 0, BitVec.ofNat 32 (memRead bs 8 4), decodeLanes (memRead bs 12 2) (bs.drop 14)⟩

theorem decodeSeam_of_framed {bs : Bytes} (h : SeamFramed bs) : decodeSeam bs = some (seamFields bs) := if_pos h

theorem decodeSeam_of_not_framed {bs : Bytes} (h : ¬SeamFramed bs) : decodeSeam bs = none := if_neg h

section Fields

variable (bs : Bytes)

theorem seamFields_edge : (seamFields bs).edge.toNat = memRead bs 5 1 := toNat_getD bs 5

theorem seamFields_phase : (seamFields bs).phase.toNat = memRead bs 6 1 := toNat_getD bs 6

theorem seamFields_epoch : (seamFields bs).epoch.toNat = memRead bs 8 4 := Nat.mod_eq_of_lt (memRead_lt bs 8 4)

theorem seamFields_lanes : (seamFields bs).lanes.map (fun l => l.lane.toNat) =
    (List.range (memRead bs 12 2)).map fun i => memRead bs (14 + 3 * i) 2 := by
  rw [seamFields, decodeLanes_lanes]
  simp only [memRead_drop]

end Fields

/-- A word has the value of a number exactly where it is the number modulo its size. -/
theorem eq_ofNat_iff {w : Nat} {x : BitVec w} {n : Nat} : x = BitVec.ofNat w n ↔ x.toNat = n % 2 ^ w := by
  rw [← BitVec.toNat_inj, BitVec.toNat_ofNat]

namespace Machine

variable {s : State} {e : Dir} {f : SeamFrame}

/-! ### The expected frame (R216) -/

/-- A write to one half leaves the lanes of the other. -/
theorem EdgeState.half_setHalf_of_ne (es : EdgeState) {q q' : Nat} (hq : q ≤ 1) (hq' : q' ≤ 1) (hne : q' ≠ q) (k k' : Nat)
    (v : Nibble) : (es.setHalf q k v).half q' k' = es.half q' k' := by
  interval_cases q <;> interval_cases q'
  · exact absurd rfl hne
  · rfl
  · rfl
  · exact absurd rfl hne

/-- ACCEPT writes the halves and the count. -/
theorem EdgeState.accept_frame (es : EdgeState) (f : SeamFrame) : es.accept f =
    { es with half0 := (es.accept f).half0, half1 := (es.accept f).half1, rxNext := es.rxNext + 1 } := by
  have hfill : ∀ (lanes : List Lane) (es : EdgeState),
      ∃ h0 h1, lanes.foldl (fun es l => es.setHalf f.phase.toNat l.lane.toNat l.value) es =
        { es with half0 := h0, half1 := h1 } := by
    intro lanes
    induction lanes with
    | nil => exact fun es => ⟨_, _, rfl⟩
    | cons l lanes ih =>
      intro es
      obtain ⟨h0, h1, hrest⟩ := ih (es.setHalf f.phase.toNat l.lane.toNat l.value)
      refine ⟨h0, h1, hrest.trans ?_⟩
      unfold EdgeState.setHalf
      split <;> rfl
  obtain ⟨h0, h1, hall⟩ := hfill f.lanes es
  rw [EdgeState.accept, hall]

/-- The lanes a frame does not carry, and the whole other half, keep their values. -/
theorem EdgeState.half_accept_of_not_carried (es : EdgeState) (hphase : f.phase.toNat ≤ 1) {q k : Nat} (hq : q ≤ 1)
    (h : q ≠ f.phase.toNat ∨ k ∉ f.lanes.map fun l => l.lane.toNat) : (es.accept f).half q k = es.half q k := by
  by_cases hne : q = f.phase.toNat
  · subst hne
    rw [EdgeState.half, EdgeState.halfList_accept, writeLanes_getD_of_notMem (h.resolve_left (absurd rfl)), EdgeState.half]
  · have hfill : ∀ (lanes : List Lane) (es : EdgeState),
        (lanes.foldl (fun es l => es.setHalf f.phase.toNat l.lane.toNat l.value) es).half q k = es.half q k := by
      intro lanes
      induction lanes with
      | nil => exact fun _ => rfl
      | cons l lanes ih => exact fun es => (ih _).trans (es.half_setHalf_of_ne hphase hq hne _ _ _)
    exact hfill f.lanes es

theorem State.unblock_bstat (s : State) :
    s.unblock.bstat = if s.bstat.blocked = true ∧ s.barrierOk = true then .clear else s.bstat := by
  rcases s.unblock_cases with ⟨hb, hok, hs⟩ | ⟨hn, hs⟩
  · rw [hs, if_pos ⟨hb, hok⟩, State.clearBarrier_bstat]
  · rw [hs, if_neg hn]

/-- A blocked status clears where the barrier holds after the frame. -/
theorem State.acceptFrame_bstat (s : State) (e : Dir) (f : SeamFrame) : (s.acceptFrame e f).bstat =
    if s.bstat.blocked = true ∧ (s.acceptFrame e f).barrierOk = true then .clear else s.bstat := by
  have hbarrier : (s.acceptFrame e f).barrierOk = (s.setEdge e ((s.edge e).accept f)).barrierOk := by
    rw [State.acceptFrame_frame]
    rfl
  rw [hbarrier]
  exact State.unblock_bstat _

/-- The barrier after an accepted frame is still that of the tick before it (R218). -/
theorem State.acceptFrame_barrierOk_iff : (s.acceptFrame e f).barrierOk = true ↔
    ∀ e', ((s.acceptFrame e f).edge e').linked = true → s.t ≤ ((s.acceptFrame e f).edge e').rxNext := by
  have ht : (s.acceptFrame e f).t = s.t := by rw [State.acceptFrame_frame]
  rw [State.barrierOk_iff, ht]

/-- Settles O35: the expected frame passes every check, so `State.acceptFrame` is what happens. -/
theorem expectedFrameIsAccepted : Obligations.ExpectedFrameIsAccepted := by
  intro s e bytes f hh hl h0 h1 hd hedge hphase hepoch hlanes
  have hself := s.acceptFrame_edge_self e f
  refine ⟨s.acceptFrame e f, ?exec, ?frame, fun l hmem => ?carried, fun q k hq hk => ?kept, fun hb hok => ?cleared, ?waiting⟩
  case exec =>
    rw [exec_seamReceive, hd, State.receiveParsed_accepted hh hl (State.frameVerdict_expected hedge hphase hepoch hlanes)]
  case frame => rw [hself, ← EdgeState.accept_frame, ← State.acceptFrame_frame]
  case carried =>
    rw [hself]
    exact EdgeState.half_accept h0 h1 hlanes hmem
  case kept =>
    rw [hself]
    exact EdgeState.half_accept_of_not_carried _ (by omega) hq hk
  case cleared =>
    rw [State.acceptFrame_bstat, if_pos ⟨hb, State.acceptFrame_barrierOk_iff.2 hok⟩]
    rfl
  case waiting =>
    intro hwait
    rw [State.acceptFrame_bstat, if_neg]
    rintro ⟨hb, hok⟩
    rcases hwait with hclear | ⟨e', hl', hmissing⟩
    · cases hb.symm.trans hclear
    · exact absurd (State.acceptFrame_barrierOk_iff.1 hok e' hl') (Nat.not_le.2 hmissing)

/-! ### The verdict on delivered bytes (R210 to R215) -/

/-- The verdict of R210 on a byte string: bytes that are no frame are corrupt. -/
def State.seamVerdict (s : State) (e : Dir) (bytes : Bytes) : Option FaultKind :=
  (decodeSeam bytes).elim (some .frameCorrupt) (s.frameVerdict e)

/-- CORRUPT(e, F) on bytes (R211): no seam frame, or one whose edge, phase or lanes do not fit the port. -/
def SeamCorrupt (p : Params) (e : Dir) (bytes : Bytes) : Prop :=
  ¬SeamFramed bytes ∨ frameMisfits p e (seamFields bytes) = true

theorem frameMisfits_iff {p : Params} : frameMisfits p e f = true ↔ f.edge.toNat ≠ e.opp.code ∨ 1 < f.phase.toNat ∨
    f.lanes.map (fun l => l.lane.toNat) ≠ recvLanes p e f.phase.toNat := by
  simp [frameMisfits, or_assoc]

/-- CORRUPT(e, F), check by check on the bytes. -/
theorem seamCorrupt_iff {p : Params} {bytes : Bytes} : SeamCorrupt p e bytes ↔
    bytes.length < 18 ∨ bytes.take 4 ≠ Config.seamMagic ∨ bytes.length ≠ 18 + 3 * memRead bytes 12 2 ∨
      memRead bytes (14 + 3 * memRead bytes 12 2) 4 ≠
        (crc32 ((bytes.drop 4).take (10 + 3 * memRead bytes 12 2))).toNat ∨
      memRead bytes 4 1 ≠ 1 ∨ memRead bytes 5 1 ≠ e.opp.code ∨ 1 < memRead bytes 6 1 ∨
      (List.range (memRead bytes 12 2)).map (fun i => memRead bytes (14 + 3 * i) 2) ≠ recvLanes p e (memRead bytes 6 1) := by
  rw [SeamCorrupt, frameMisfits_iff, seamFields_edge, seamFields_phase, seamFields_lanes]
  simp only [SeamFramed, not_and_or, Nat.not_le, or_assoc, ne_eq]

/-- The verdict in the order of R210, on the fields of the bytes. -/
theorem State.seamVerdict_corrupt {bytes : Bytes} (h : SeamCorrupt s.params e bytes) :
    s.seamVerdict e bytes = some .frameCorrupt := by
  by_cases hf : SeamFramed bytes
  · have hmisfits := h.resolve_left (not_not.2 hf)
    simp [State.seamVerdict, decodeSeam_of_framed hf, State.frameVerdict, hmisfits]
  · simp [State.seamVerdict, decodeSeam_of_not_framed hf]

theorem State.seamVerdict_of_not_corrupt {bytes : Bytes} (h : ¬SeamCorrupt s.params e bytes) : s.seamVerdict e bytes =
    if 0 < (s.edge e).rxNext ∧ memRead bytes 8 4 = ((s.edge e).rxNext - 1) / 2 % 2 ^ 32 ∧
        memRead bytes 6 1 = ((s.edge e).rxNext - 1) % 2 then some .duplicate
    else if memRead bytes 8 4 ≠ (s.edge e).rxNext / 2 % 2 ^ 32 then some .epochMismatch
    else if memRead bytes 6 1 ≠ (s.edge e).rxNext % 2 then some .phaseMismatch
    else none := by
  obtain ⟨hf, hfits⟩ := not_or.1 h
  simp only [State.seamVerdict, decodeSeam_of_framed (not_not.1 hf), Option.elim_some, State.frameVerdict, if_neg hfits,
    eq_ofNat_iff, seamFields_epoch, seamFields_phase, ne_eq]

/-- A rejected frame is counted, becomes the reason of a status that waits for its edge, and is reported (R217). -/
theorem State.seamFault_eq (s : State) (e : Dir) (k : FaultKind) : s.seamFault e k = State.afterReport { s with
    edges := s.edges.set e { s.edge e with fcount := (s.edge e).fcount.bump k }
    bstat := if s.bstat.blocked = true ∧ s.bstat.edgeMask.getLsbD e.code = true then
      { s.bstat with reason := k.reason } else s.bstat } k.errorCode := by
  rw [State.seamFault, State.report_eq, State.blame, State.setEdge_bstat]
  simp only [Bool.and_eq_true]
  split <;> rfl

theorem exec_seamReceive_ignored (h : s.halted = true ∨ (s.edge e).linked = false) (bytes : Bytes) :
    exec (.seamReceive e bytes) s = .next s :=
  congrArg Host.Outcome.next (if_pos h)

theorem exec_seamReceive_rejected (hh : s.halted = false) (hl : (s.edge e).linked = true) {bytes : Bytes} {k : FaultKind}
    (hv : s.seamVerdict e bytes = some k) : exec (.seamReceive e bytes) s = .next (s.seamFault e k) := by
  rw [exec_seamReceive]
  unfold State.seamVerdict at hv
  cases hd : decodeSeam bytes with
  | none =>
    rw [hd] at hv
    obtain rfl := Option.some.inj hv
    simp [State.receiveParsed, hh, hl]
  | some f =>
    rw [hd, Option.elim_some] at hv
    simp [State.receiveParsed, hh, hl, hv]

/-- Settles O36: `State.seamVerdict` is the first check that fails, and `State.seamFault` what follows. -/
theorem rejectedFrameIsCountedAndReported : Obligations.RejectedFrameIsCountedAndReported := by
  intro s e bytes n x epoch phase corrupt duplicate rejected
  have hcorrupt : corrupt ↔ SeamCorrupt s.params e bytes := seamCorrupt_iff.symm
  have hrejected : ∀ {k}, s.halted = false → (s.edge e).linked = true → s.seamVerdict e bytes = some k →
      exec (.seamReceive e bytes) s = rejected k := fun hh hl hv => by
    rw [exec_seamReceive_rejected hh hl hv, State.seamFault_eq]
  have hverdict := fun hc : ¬corrupt => State.seamVerdict_of_not_corrupt (hcorrupt.not.1 hc)
  exact ⟨fun h => exec_seamReceive_ignored h bytes, fun hh hl =>
    ⟨fun hc => hrejected hh hl (State.seamVerdict_corrupt (hcorrupt.1 hc)),
      fun hc hdup => hrejected hh hl ((hverdict hc).trans (if_pos hdup)),
      fun hc hdup hepoch => hrejected hh hl ((hverdict hc).trans ((if_neg hdup).trans (if_pos hepoch))),
      fun hc hdup hepoch hphase => hrejected hh hl
        ((hverdict hc).trans ((if_neg hdup).trans ((if_neg (not_not.2 hepoch)).trans (if_pos hphase))))⟩⟩

end Machine

end Sys2Proof
end

section
/-!
PROOFS. STALL of a blocked tick and the substitution of a missing frame (42_seam_barrier.md R219, R221).
-/

namespace Sys2Proof.Machine

variable {s : State} {e : Dir}

/-! ### STALL (R219) -/

/-- STALL is not enabled again in the tick it has reported. -/
theorem exec_stall_again {t : State} (hr : t.reported = some t.t) (hb : t.bstat.blocked = true) : exec .stall t = .next t :=
  exec_stall_disabled (State.stallEnabled_eq_false (.inr (.inr (.inr ⟨hr, hb⟩))))

@[simp] theorem State.afterReport_reported (s : State) (code : ErrorCode) : (s.afterReport code).reported = s.reported := by
  rw [← State.report_eq, State.report_frame]

@[simp] theorem State.afterReport_t (s : State) (code : ErrorCode) : (s.afterReport code).t = s.t := by
  rw [← State.report_eq, State.report_t]

/-- Settles O38: the mask is `State.edgeMissing`, edge by edge. -/
theorem stallReportsOncePerTick : Obligations.StallReportsOncePerTick := by
  intro s hh hp hmissing hreported
  have he : s.stallEnabled = true := s.stallEnabled_iff.2 ⟨hh, hp, s.barrierOk_eq_false_iff.2 hmissing, hreported⟩
  have hmask : ∀ e, (nibbleOf s.edgeMissing).getLsbD e.code = true ↔ ((s.edge e).linked = true ∧ (s.edge e).rxNext < s.t) :=
    fun e => by rw [nibbleOf_bit, State.edgeMissing_iff]
  rcases s.exec_stall_cases with ⟨hd, _⟩ | ⟨_, hr, hx⟩ | ⟨_, hr, hx⟩
  · cases hd.symm.trans he
  · refine ⟨nibbleOf s.edgeMissing, _, hx, hmask, fun _ => rfl, fun h => absurd h hr, exec_stall_again ?_ ?_⟩
    · rw [State.afterReport_reported, State.afterReport_t]
    · rw [State.afterReport_bstat]
      rfl
  · exact ⟨nibbleOf s.edgeMissing, _, hx, hmask, fun h => absurd hr h, fun _ => rfl, exec_stall_again hr rfl⟩

/-! ### SUBSTITUTE_HELD (R221) -/

theorem State.substituteEnabled_iff : s.substituteEnabled e = true ↔ s.params.policy = .holdLastGood ∧ s.halted = false ∧
    0 < s.pending ∧ (s.edge e).linked = true ∧ (s.edge e).rxNext < s.t := by
  simp [State.substituteEnabled, State.edgeMissing, and_assoc]

/-- The tile after the writes of a substitution: the frame of edge `e` counts as received, and the edge is marked. -/
def State.substituted (s : State) (e : Dir) : State :=
  s.setEdge e { s.edge e with rxNext := (s.edge e).rxNext + 1, substituted := true }

/-- The barrier status after a substitution: clear where the barrier then holds. -/
def State.substitutedStatus (s : State) (e : Dir) : BarrierStatus :=
  if (s.substituted e).barrierOk = true then .clear else s.bstat

theorem State.substituteHeld_eq (s : State) (e : Dir) :
    s.substituteHeld e = State.afterReport { s.substituted e with bstat := s.substitutedStatus e } .substituted := by
  change (if ((s.substituted e).report .substituted).barrierOk = true then
    ((s.substituted e).report .substituted).clearBarrier else (s.substituted e).report .substituted) = _
  rw [State.report_barrierOk, State.report_clearBarrier, State.report_eq, State.report_eq, State.substitutedStatus]
  split <;> rfl

/-- Settles O41: what happens is `State.substituteHeld_eq`, the barrier being that of the edges after the substitution. -/
theorem substitutionIsMarkedAndReported : Obligations.SubstitutionIsMarkedAndReported := by
  intro s e hpolicy hh hp hl hmissing edges
  have he := State.substituteEnabled_iff.2 ⟨hpolicy, hh, hp, hl, hmissing⟩
  refine ⟨s.substitutedStatus e, ?_, fun hall => if_pos ?_, fun hsome => if_neg (Bool.eq_false_iff.1 ?_)⟩
  · rw [exec, execSubstituteHeld, if_pos he, State.substituteHeld_eq]
    rfl
  · exact (State.barrierOk_iff _).2 hall
  · exact (State.barrierOk_eq_false_iff _).2 hsome

end Sys2Proof.Machine
end

section
/-!
PROOFS. The lockstep bound (42_seam_barrier.md R225). A tile ticks only where it has accepted the frame of the tick before, and accepts
a frame only with the epoch and phase it waits for; under the channel premise the frame is one the other tile sent at an earlier tick.
Below 2^33 ticks epoch and phase name one tick, so the count of accepted frames stays at or below the other's tick count.
-/

namespace Sys2Proof.Machine

/-! ### The frames of earlier ticks (R208) -/

/-- The bytes are a frame with the epoch and phase of a tick before `t`. -/
def FrameBefore (t : Nat) (bytes : Bytes) : Prop :=
  ∃ f fr, f < t ∧ decodeSeam bytes = some fr ∧ fr.epoch.toNat = f / 2 % 2 ^ 32 ∧ fr.phase.toNat = f % 2

theorem FrameBefore.mono {t t' : Nat} {bytes : Bytes} (h : FrameBefore t bytes) (ht : t ≤ t') : FrameBefore t' bytes := by
  obtain ⟨f, fr, hf, hfr⟩ := h
  exact ⟨f, fr, hf.trans_le ht, hfr⟩

/-- The frame of tick `f` is a frame before `f + 1`. -/
theorem State.frameOf_before {s : State} (hp : s.params.valid = true) (e : Dir) (f : Nat) :
    FrameBefore (f + 1) (encodeSeam (s.frameOf e f)) :=
  ⟨f, _, f.lt_succ_self, State.decodeSeam_frameOf hp e f, BitVec.toNat_ofNat .., Nat.mod_eq_of_lt (by omega)⟩

/-- A frame that passes the checks of R210 has the epoch and phase of the tick the edge waits for. -/
theorem State.expected_of_frameVerdict {s : State} {e : Dir} {f : SeamFrame} (h : s.frameVerdict e f = none) :
    f.epoch.toNat = (s.edge e).rxNext / 2 % 2 ^ 32 ∧ f.phase.toNat = (s.edge e).rxNext % 2 := by
  unfold State.frameVerdict at h
  dsimp only at h
  split_ifs at h with _ _ hepoch hphase
  exact ⟨eq_ofNat_iff.1 (not_not.1 hepoch), not_not.1 hphase⟩

/-- Below 2^33 ticks a frame of an earlier tick that is accepted is the frame of the expected tick, which is therefore earlier. -/
theorem FrameBefore.rxNext_lt {s : State} {e : Dir} {f : SeamFrame} {t : Nat} {bytes : Bytes} (h : FrameBefore t bytes)
    (hd : decodeSeam bytes = some f) (hv : s.frameVerdict e f = none) (hrx : (s.edge e).rxNext ≤ t) (ht : t < 2 ^ 33) :
    (s.edge e).rxNext < t := by
  obtain ⟨n, fr, hn, hdn, hepoch, hphase⟩ := h
  obtain rfl := Option.some.inj (hd.symm.trans hdn)
  obtain ⟨hepoch', hphase'⟩ := State.expected_of_frameVerdict hv
  omega

/-! ### What an agent step does at an edge -/

/-- At edge `e` nothing has happened from `s` to `s'` but that retained frames may have been sent again. -/
structure State.SameSide (e : Dir) (s s' : State) : Prop where
  params : s'.params = s.params
  t : s'.t = s.t
  linked : (s'.edge e).linked = (s.edge e).linked
  rxNext : (s'.edge e).rxNext = (s.edge e).rxNext
  tx : (s'.edge e).tx = (s.edge e).tx
  sent : ∀ bytes, (e, bytes) ∈ s'.seamOut → (e, bytes) ∈ s.seamOut ∨ ∃ r ∈ (s.edge e).tx, r.2 = bytes

namespace State.SameSide

variable {s : State} {e e' : Dir}

theorem refl (e : Dir) (s : State) : SameSide e s s := ⟨rfl, rfl, rfl, rfl, rfl, fun _ => .inl⟩

theorem report {s' : State} (h : SameSide e s s') (code : ErrorCode) : SameSide e s (s'.report code) := by
  rw [State.report_frame]
  exact { h with }

theorem withStatus {s' : State} (h : SameSide e s s') (bstat : BarrierStatus) (reported : Option Nat) :
    SameSide e s { s' with bstat := bstat, reported := reported } :=
  { h with }

/-- One edge replaced: another one, or this one without a change of its link, its count and its retained frames. -/
theorem setEdge {es : EdgeState} (h : e' = e → es.linked = (s.edge e).linked ∧ es.rxNext = (s.edge e).rxNext ∧
    es.tx = (s.edge e).tx) : SameSide e s (s.setEdge e' es) := by
  by_cases he : e' = e
  · obtain ⟨hl, hr, ht⟩ := h he
    subst he
    exact ⟨rfl, rfl, by rw [State.setEdge_edge_self, hl], by rw [State.setEdge_edge_self, hr],
      by rw [State.setEdge_edge_self, ht], fun _ => .inl⟩
  · have hedge := s.setEdge_edge_ne (Ne.symm he) es
    exact ⟨rfl, rfl, by rw [hedge], by rw [hedge], by rw [hedge], fun _ => .inl⟩

theorem seamFault (e e' : Dir) (s : State) (k : FaultKind) : SameSide e s (s.seamFault e' k) := by
  rw [State.seamFault_eq, ← State.report_eq]
  exact ((setEdge (s := s) (e' := e') (by rintro rfl; exact ⟨rfl, rfl, rfl⟩)).withStatus _ _).report _

theorem acceptFrame (hne : e' ≠ e) (f : SeamFrame) : SameSide e s (s.acceptFrame e' f) := by
  rw [State.acceptFrame_frame]
  exact (setEdge (s := s) fun he => absurd he hne).withStatus _ _

theorem substituteHeld (hne : e' ≠ e) : SameSide e s (s.substituteHeld e') := by
  rw [State.substituteHeld_eq, ← State.report_eq]
  exact ((setEdge (s := s) fun he => absurd he hne).withStatus _ _).report _

theorem sendSeam {r : Nat × Bytes} (hr : r ∈ (s.edge e').tx) : SameSide e s (s.sendSeam e' r.2) := by
  refine { refl e s with sent := fun bytes hsent => ?_ }
  rcases List.mem_append.1 hsent with hold | hnew
  · exact .inl hold
  · obtain ⟨rfl, rfl⟩ := Prod.mk.inj (List.mem_singleton.1 hnew)
    exact .inr ⟨r, hr, rfl⟩

end State.SameSide

/-- What an agent step that keeps the seam does at its edge: nothing, a tick, or the acceptance of a frame under the channel
premise. -/
inductive State.SeamStep (e : Dir) (s other : State) : State → Prop where
  | same {s' : State} (h : s.SameSide e s') : SeamStep e s other s'
  | tick (h : s.tickEnabled = true) : SeamStep e s other s.tickBody
  | accept {bytes : Bytes} {f : SeamFrame} (hchannel : channelHonest e other bytes) (hd : decodeSeam bytes = some f)
      (hv : s.frameVerdict e f = none) : SeamStep e s other (s.acceptFrame e f)

section Perform

variable {e : Dir} {other s s' : State}

theorem seamStep_of_seam {e' : Dir} {bytes : Bytes} (hk : e' = e → channelHonest e other bytes) :
    s.SeamStep e other (s.receiveParsed e' (decodeSeam bytes)) := by
  rcases s.receiveParsed_cases e' (decodeSeam bytes) with ⟨_, hs⟩ | ⟨_, _, _, hs⟩ | ⟨_, k, _, _, _, _, hs⟩ | ⟨f, _, _, hd, hv, hs⟩
    <;> rw [hs]
  · exact .same (.refl e s)
  · exact .same (.seamFault e e' s .frameCorrupt)
  · exact .same (.seamFault e e' s k)
  · by_cases he : e' = e
    · subst he
      exact .accept (hk rfl) hd hv
    · exact .same (.acceptFrame he f)

theorem seamStep_of_tick (e : Dir) (other s : State) : s.SeamStep e other s.tickIfEnabled := by
  unfold State.tickIfEnabled
  split
  · next he => exact .tick he
  · exact .same (.refl e s)

theorem seamStep_of_stall (h : exec .stall s = .next s') : s.SeamStep e other s' := by
  rcases s.exec_stall_cases with ⟨_, hx⟩ | ⟨_, _, hx⟩ | ⟨_, _, hx⟩ <;>
    obtain rfl := Host.Outcome.next.inj (hx.symm.trans h)
  · exact .same (.refl e s)
  · rw [← State.report_eq]
    exact .same (((State.SameSide.refl e s).withStatus _ _).report _)
  · exact .same ((State.SameSide.refl e s).withStatus _ _)

theorem seamStep_of_substitute {e' : Dir} (hne : e' ≠ e) (h : exec (.substituteHeld e') s = .next s') :
    s.SeamStep e other s' := by
  obtain rfl := Host.Outcome.next.inj h
  split
  · exact .same (.substituteHeld hne)
  · exact .same (.refl e s)

theorem seamStep_of_resend {e' : Dir} {epoch : BitVec 32} {phase : Byte}
    (h : exec (.resend e' epoch phase) s = .next s') : s.SeamStep e other s' := by
  cases hh : s.halted with
  | true =>
    obtain rfl := Host.Outcome.next.inj ((exec_resend_halted hh ..).symm.trans h)
    exact .same (.refl e s)
  | false =>
    rcases exec_resend_cases hh e' epoch phase with ⟨r, hr, _, hx⟩ | ⟨_, hx⟩ <;>
      obtain rfl := Host.Outcome.next.inj (hx.symm.trans h)
    · exact .same (.sendSeam hr)
    · exact .same (.refl e s)

theorem seamStep_of_perform {ev : Event} (h : perform ev s = .next s') (hk : keepsSeam e other ev s s') :
    s.SeamStep e other s' := by
  cases ev with
  | deliver frame =>
    obtain rfl := Host.Outcome.next.inj h
    exact .same { State.SameSide.refl e s with }
  | control =>
    obtain ⟨ht, hedges, hsent, hparams⟩ := hk
    have hedge : s'.edge e = s.edge e := by rw [State.edge, hedges, State.edge]
    exact .same ⟨hparams, ht, by rw [hedge], by rw [hedge], by rw [hedge], fun _ hb => .inl (hsent ▸ hb)⟩
  | seam e' bytes =>
    obtain rfl := Host.Outcome.next.inj h
    exact seamStep_of_seam hk
  | tick =>
    obtain rfl := Host.Outcome.next.inj h
    exact seamStep_of_tick e other s
  | stall => exact seamStep_of_stall h
  | substitute e' => exact seamStep_of_substitute hk h
  | resend e' epoch phase => exact seamStep_of_resend h
  | launch p g => exact hk.elim

/-- Such a step does not put the tick count back. -/
theorem State.SeamStep.t_le (h : s.SeamStep e other s') : s.t ≤ s'.t := by
  cases h with
  | same h => exact h.t.ge
  | tick => rw [State.tickBody_t]; exact Nat.le_succ _
  | accept => rw [State.acceptFrame_frame]

end Perform

theorem State.acceptFrame_rxNext (s : State) (e : Dir) (f : SeamFrame) :
    ((s.acceptFrame e f).edge e).rxNext = (s.edge e).rxNext + 1 := by
  rw [State.acceptFrame_edge_self]
  rfl

/-! ### One side of a seam -/

/-- What a linked tile keeps at edge `e`: it has ticked at most once more than it has accepted frames, and has sent and retained there
only frames of its earlier ticks. -/
structure State.SeamSide (e : Dir) (s : State) : Prop where
  params : s.params.valid = true
  linked : (s.edge e).linked = true
  ticks : s.t ≤ (s.edge e).rxNext + 1
  retained : ∀ r ∈ (s.edge e).tx, FrameBefore s.t r.2
  sent : ∀ bytes, (e, bytes) ∈ s.seamOut → FrameBefore s.t bytes

namespace State.SeamSide

variable {e : Dir} {other s s' : State}

theorem of_freshEdge (h : s.FreshEdge e) : s.SeamSide e where
  params := h.params
  linked := h.linked
  ticks := h.t ▸ Nat.zero_le _
  retained := by simp [h.tx]
  sent := by simp [h.sent]

theorem sameSide (h : s.SeamSide e) (hs : s.SameSide e s') : s'.SeamSide e where
  params := hs.params ▸ h.params
  linked := hs.linked.trans h.linked
  ticks := by rw [hs.t, hs.rxNext]; exact h.ticks
  retained := by rw [hs.t, hs.tx]; exact h.retained
  sent := fun bytes hb => by
    rw [hs.t]
    rcases hs.sent bytes hb with hold | ⟨r, hr, rfl⟩
    · exact h.sent bytes hold
    · exact h.retained r hr

/-- A tick runs where its frame is there, and sends and retains the frame of its own tick. -/
theorem tickBody (h : s.SeamSide e) (he : s.tickEnabled = true) : s.tickBody.SeamSide e where
  params := (congrArg Params.valid s.tickBody_params).trans h.params
  linked := (s.tickBody_edge_linked e).trans h.linked
  ticks := by
    obtain ⟨_, _, hok⟩ := s.tickEnabled_iff.1 he
    rw [State.tickBody_t, State.tickBody_edge_rxNext]
    exact Nat.succ_le_succ (s.barrierOk_iff.1 hok e h.linked)
  retained := fun r hr => by
    rw [State.tickBody_edge, if_pos h.linked] at hr
    rw [State.tickBody_t]
    rcases List.mem_append.1 (List.mem_of_mem_drop hr) with hold | hnew
    · exact (h.retained r hold).mono (Nat.le_succ _)
    · obtain rfl := List.mem_singleton.1 hnew
      exact State.frameOf_before (s := s.commitTick) h.params e s.t
  sent := fun bytes hb => by
    have hsent : s.tickBody.seamOut = (s.commitTick.emitAll s.t).seamOut := by rw [State.tickBody_frame]
    rw [hsent, State.emitAll_seamOut] at hb
    rw [State.tickBody_t]
    rcases List.mem_append.1 hb with hold | hnew
    · exact (h.sent bytes hold).mono (Nat.le_succ _)
    · obtain ⟨e', _, heq⟩ := List.mem_map.1 hnew
      obtain ⟨rfl, rfl⟩ := Prod.mk.inj heq
      exact State.frameOf_before (s := s.commitTick) h.params e' s.t

theorem acceptFrame (h : s.SeamSide e) (f : SeamFrame) : (s.acceptFrame e f).SeamSide e := by
  have ht : (s.acceptFrame e f).t = s.t := by rw [State.acceptFrame_frame]
  have hsent : (s.acceptFrame e f).seamOut = s.seamOut := by rw [State.acceptFrame_frame]
  have hparams : (s.acceptFrame e f).params = s.params := by rw [State.acceptFrame_frame]
  have hedge : (s.acceptFrame e f).edge e = { s.edge e with
      half0 := ((s.edge e).accept f).half0, half1 := ((s.edge e).accept f).half1, rxNext := (s.edge e).rxNext + 1 } := by
    rw [State.acceptFrame_edge_self, ← EdgeState.accept_frame]
  constructor <;> simp only [ht, hsent, hparams, hedge]
  · exact h.params
  · exact h.linked
  · exact h.ticks.trans (Nat.le_succ _)
  · exact h.retained
  · exact h.sent

theorem step (h : s.SeamSide e) (hs : s.SeamStep e other s') : s'.SeamSide e := by
  cases hs with
  | same hs => exact h.sameSide hs
  | tick he => exact h.tickBody he
  | accept => exact h.acceptFrame _

/-- The count of accepted frames does not pass the other tile's tick count. -/
theorem step_rxNext_le (hother : other.SeamSide e.opp) (hrx : (s.edge e).rxNext ≤ other.t)
    (ht : other.t < 2 ^ 33) (hs : s.SeamStep e other s') : (s'.edge e).rxNext ≤ other.t := by
  cases hs with
  | same hs => rwa [hs.rxNext]
  | tick => rwa [State.tickBody_edge_rxNext]
  | @accept bytes f hchannel hd hv =>
    have hbefore : FrameBefore other.t bytes := hother.sent bytes (hchannel (by simp [hd]))
    rw [State.acceptFrame_rxNext]
    exact hbefore.rxNext_lt hd hv hrx ht

end State.SeamSide

/-! ### Both sides -/

/-- The two sides of the seam between edge `e` of `a` and the facing edge of `b`, each with no more frames accepted than the other
has ticked. -/
structure SeamInStep (e : Dir) (a b : State) : Prop where
  left : a.SeamSide e
  right : b.SeamSide e.opp
  leftCount : (a.edge e).rxNext ≤ b.t
  rightCount : (b.edge e.opp).rxNext ≤ a.t

namespace SeamInStep

variable {e : Dir} {a a' b : State}

theorem symm (h : SeamInStep e a b) : SeamInStep e.opp b a where
  left := h.right
  right := e.opp_opp.symm ▸ h.left
  leftCount := h.rightCount
  rightCount := e.opp_opp.symm ▸ h.leftCount

theorem step (h : SeamInStep e a b) (hb : b.t < 2 ^ 33) (hs : a.SeamStep e b a') : SeamInStep e a' b where
  left := h.left.step hs
  right := h.right
  leftCount := State.SeamSide.step_rxNext_le h.right h.leftCount hb hs
  rightCount := h.rightCount.trans hs.t_le

end SeamInStep

theorem SeamPair.inStep {e : Dir} {a b : State} (h : SeamPair e a b) (ha : a.t < 2 ^ 33) (hb : b.t < 2 ^ 33) :
    SeamInStep e a b := by
  induction h with
  | start a b hfa hfb =>
    exact ⟨.of_freshEdge hfa, .of_freshEdge hfb, hfa.rxNext ▸ Nat.zero_le _, hfb.rxNext ▸ Nat.zero_le _⟩
  | left a a' b ev _ hperform hkeeps ih =>
    have hs := seamStep_of_perform hperform hkeeps
    exact (ih (hs.t_le.trans_lt ha) hb).step hb hs
  | right a b b' ev _ hperform hkeeps ih =>
    have hs := seamStep_of_perform hperform hkeeps
    exact e.opp_opp ▸ ((ih ha (hs.t_le.trans_lt hb)).symm.step ha hs).symm

/-- Settles O44: each tile has ticked at most once more than it has accepted frames, of which the other has sent all. -/
theorem linkedTilesStayInStep : Obligations.LinkedTilesStayInStep := by
  intro e a b h ha hb
  obtain ⟨hleft, hright, hleftCount, hrightCount⟩ := h.inStep ha hb
  exact ⟨hleftCount, hright.ticks.trans (Nat.succ_le_succ hrightCount), hrightCount,
    hleft.ticks.trans (Nat.succ_le_succ hleftCount)⟩

end Sys2Proof.Machine
end

section
/-!
PROOFS. The payload of a bitstream (20_memory.md R66 to R70; 43_host_commands.md R251, R265): payload bits as bits of a little-endian
number, the scan orders as permutations of the dense positions, and the tables a packed payload decodes to.
-/

namespace Sys2Proof

/-! ### Bits of a byte string (20_memory.md R66) -/

/-- Bit `k` of a little-endian value is bit `k mod 8` of byte `k / 8`. -/
theorem leValue_testBit (bs : Bytes) (k : Nat) : (leValue bs).testBit k = (bs.getD (k / 8) 0).getLsbD (k % 8) := by
  induction bs generalizing k with
  | nil => simp [leValue]
  | cons b bs ih =>
    have hvalue : leValue (b :: bs) = 2 ^ 8 * leValue bs + b.toNat := Nat.add_comm ..
    rw [hvalue, Nat.testBit_two_pow_mul_add _ b.isLt]
    split
    · next hk => rw [Nat.div_eq_of_lt hk, Nat.mod_eq_of_lt hk]; rfl
    · next hk =>
      obtain ⟨k, rfl⟩ := Nat.exists_eq_add_of_le' (not_lt.1 hk)
      rw [Nat.add_sub_cancel, ih, Nat.add_div_right _ (by decide), Nat.add_mod_right]
      rfl

/-- Bit `i` of a field is a bit of the byte it stands in. -/
theorem memRead_testBit (bs : Bytes) (off : Nat) {n i : Nat} (h : i < 8 * n) :
    (memRead bs off n).testBit i = (bs.getD (off + i / 8) 0).getLsbD (i % 8) := by
  rw [memRead, leValue_testBit, List.getD_eq_getElem?_getD, List.getElem?_take_of_lt (by omega), List.getElem?_drop,
    List.getD_eq_getElem?_getD]

/-- Least significant bit first, a table is the two-byte field at its place in the payload (30_encoding.md R102). -/
theorem payloadTable_eq_memRead (payload : Bytes) (s : Nat) (d : Dir) :
    payloadTable payload true s d = BitVec.ofNat 16 (memRead payload (8 * s + 2 * d.code) 2) := by
  apply BitVec.eq_of_getLsbD_eq
  intro i hi
  have hbyte : (64 * s + 16 * d.code + i) / 8 = 8 * s + 2 * d.code + i / 8 := by omega
  have hbit : (64 * s + 16 * d.code + i) % 8 = i % 8 := by omega
  rw [payloadTable, Machine.tableOfBits_getLsbD _ hi, BitVec.getLsbD_ofNat, memRead_testBit _ _ hi, payloadBit, if_pos rfl,
    hbyte, hbit, decide_eq_true hi, Bool.true_and]

/-! ### Scan orders (20_memory.md R69) -/

section Scan

variable {order w h s s' : Nat}

/-- Every scan position is a place of the tile. -/
theorem scan_lt (order : Nat) (hs : s < w * h) : (scan order w h s).1 < w ∧ (scan order w h s).2 < h := by
  have hw : 0 < w := Nat.pos_of_mul_pos_right (Nat.zero_lt_of_lt hs)
  have hh : 0 < h := Nat.pos_of_mul_pos_left (Nat.zero_lt_of_lt hs)
  have hx : s % w < w := Nat.mod_lt _ hw
  have hy : s / w < h := Nat.div_lt_of_lt_mul hs
  unfold scan
  split
  · exact ⟨hx, hy⟩
  · exact ⟨Nat.div_lt_of_lt_mul (Nat.mul_comm w h ▸ hs), Nat.mod_lt _ hh⟩
  · exact ⟨by dsimp only; split <;> omega, hy⟩

/-- Two scan positions at one place are one. -/
theorem scan_injective (order : Nat) (hs : s < w * h) (he : scan order w h s = scan order w h s') :
    s = s' := by
  have hw : 0 < w := Nat.pos_of_mul_pos_right (Nat.zero_lt_of_lt hs)
  have hrow : s / w = s' / w → s % w = s' % w → s = s' := fun hd hm => by rw [← Nat.div_add_mod s w, hd, hm, Nat.div_add_mod]
  unfold scan at he
  split at he <;> obtain ⟨hx, hy⟩ := Prod.mk.inj he
  · exact hrow hy hx
  · rw [← Nat.div_add_mod s h, hx, hy, Nat.div_add_mod]
  · have hm := Nat.mod_lt s hw
    have hm' := Nat.mod_lt s' hw
    rw [hy] at hx
    refine hrow hy ?_
    split at hx <;> omega

theorem scanIndex_lt (order : Nat) (hs : s < w * h) : scanIndex order w h s < w * h := by
  obtain ⟨hx, hy⟩ := scan_lt order hs
  calc scanIndex order w h s < (scan order w h s).2 * w + w := Nat.add_lt_add_left hx _
    _ = w * ((scan order w h s).2 + 1) := by ring
    _ ≤ w * h := Nat.mul_le_mul_left w hy

theorem scanIndex_injective (order : Nat) (hs : s < w * h) (hs' : s' < w * h)
    (he : scanIndex order w h s = scanIndex order w h s') : s = s' := by
  obtain ⟨hx, _⟩ := scan_lt order hs
  obtain ⟨hx', _⟩ := scan_lt order hs'
  unfold scanIndex at he
  have hmod := congrArg (· % w) he
  have hdiv := congrArg (· / w) he
  have hw : 0 < w := Nat.zero_lt_of_lt hx
  simp only [Nat.add_comm (_ * w), Nat.add_mul_mod_self_right, Nat.add_mul_div_right _ _ hw, Nat.mod_eq_of_lt hx,
    Nat.mod_eq_of_lt hx', Nat.div_eq_of_lt hx, Nat.div_eq_of_lt hx', Nat.zero_add] at hmod hdiv
  exact scan_injective order hs (Prod.ext hmod hdiv)

/-- Every dense position has its scan position. -/
theorem exists_scanIndex_eq (order : Nat) {i : Nat} (hi : i < w * h) : ∃ s < w * h, scanIndex order w h s = i := by
  have hinj : Function.Injective fun s : Fin (w * h) => (⟨scanIndex order w h s, scanIndex_lt order s.isLt⟩ : Fin (w * h)) :=
    fun s s' he => Fin.ext (scanIndex_injective order s.isLt s'.isLt (Fin.mk.inj he))
  obtain ⟨s, hs⟩ := (Finite.surjective_of_injective hinj) ⟨i, hi⟩
  exact ⟨s, s.isLt, Fin.mk.inj hs⟩

/-! ### DECODE_PAYLOAD (43_host_commands.md R251) -/

/-- Entries written once each to distinct places of a list are all there afterwards. -/
theorem getElem?_foldl_set {α : Type} {f : Nat → Nat} {g : Nat → α} {n : Nat} {l : List α}
    (hlt : ∀ s < n, f s < l.length) (hinj : ∀ s < n, ∀ s' < n, f s = f s' → s = s') (hs : s < n) :
    ((List.range n).foldl (fun l s => l.set (f s) (g s)) l)[f s]? = some (g s) := by
  induction n with
  | zero => cases hs
  | succ n ih =>
    have hlength : ∀ (ss : List Nat), (ss.foldl (fun l s => l.set (f s) (g s)) l).length = l.length := fun ss => by
      induction ss using List.reverseRecOn with
      | nil => rfl
      | append_singleton ss s ih => simpa using ih
    rw [List.range_succ, List.foldl_append, List.foldl_cons, List.foldl_nil]
    rcases Nat.lt_succ_iff_lt_or_eq.1 hs with hlast | rfl
    · have hne : f n ≠ f s := fun he => hlast.ne (hinj n n.lt_succ_self s hs he).symm
      rw [List.getElem?_set_ne hne]
      exact ih (fun s hs => hlt s (hs.trans n.lt_succ_self))
        (fun s hs s' hs' => hinj s (hs.trans n.lt_succ_self) s' (hs'.trans n.lt_succ_self)) hlast
    · rw [List.getElem?_set_self (by rw [hlength]; exact hlt s hs)]

/-- The cell at the place of scan position `s` gets the tables of scan position `s`. -/
theorem getElem?_decodeTables (payload : Bytes) (order : Nat) (lsbFirst : Bool) (hs : s < w * h) :
    (decodeTables payload order w h lsbFirst)[scanIndex order w h s]? = some (payloadCell payload lsbFirst s) :=
  getElem?_foldl_set (fun _ hs => by simpa using scanIndex_lt order hs)
    (fun _ hs _ => scanIndex_injective order hs) hs

theorem payloadCell_get (payload : Bytes) (lsbFirst : Bool) (s : Nat) (d : Dir) :
    (payloadCell payload lsbFirst s).get d = payloadTable payload lsbFirst s d := by cases d <;> rfl

/-- The coordinates of a scan position, order by order (20_memory.md R69). -/
theorem scan_eq (horder : order ≤ 2) (s : Nat) : scan order w h s =
    (if order = 0 then s % w else if order = 1 then s / h else if s / w % 2 = 0 then s % w else w - 1 - s % w,
      if order = 1 then s % h else s / w) := by
  interval_cases order <;> simp [scan]

/-- Settles O6: the coordinates of R69 are those of `scan`, and a table's bits are those of `payloadTable`. -/
theorem payloadBitsLandInTheirTables : Obligations.PayloadBitsLandInTheirTables := by
  intro payload w h order s i d lsbFirst horder hs hi x y k
  have hscan : scan order w h s = (x, y) := scan_eq horder s
  have hindex : scanIndex order w h s = y * w + x := by rw [scanIndex, hscan]
  obtain ⟨hx, hy⟩ := hscan ▸ scan_lt order hs
  refine ⟨hx, hy, ?_⟩
  rw [← hindex, List.getD_eq_getElem?_getD, getElem?_decodeTables payload order lsbFirst hs, Option.getD_some,
    payloadCell_get, payloadTable, Machine.tableOfBits_getLsbD _ hi]
  rfl

/-! ### PACK (30_encoding.md R102, R105) -/

theorem cellBytes_length (t : PerDir Table) : (cellBytes t).length = 8 := by simp [cellBytes]

/-- The eight bytes of a cell hold its table of output `d` at byte `2 · d`. -/
theorem memRead_cellBytes (t : PerDir Table) (d : Dir) (rest : Bytes) :
    memRead (cellBytes t ++ rest) (2 * d.code) 2 = (t.get d).toNat := by
  cases d <;> simp [cellBytes, Dir.code, PerDir.get]

theorem drop_flatMap {α : Type} (f : α → Bytes) {k : Nat} (hf : ∀ a, (f a).length = k) (l : List α) (n : Nat) :
    (l.flatMap f).drop (k * n) = (l.drop n).flatMap f := by
  induction n generalizing l with
  | zero => simp
  | succ n ih =>
    cases l with
    | nil => simp
    | cons a l =>
      rw [List.flatMap_cons, List.drop_succ_cons, ← ih, Nat.mul_succ, Nat.add_comm, ← List.drop_drop,
        List.drop_left' (hf a)]

theorem packPayload_length (ts : List (PerDir Table)) (order w h : Nat) :
    (packPayload ts order w h).length = 8 * (w * h) := by
  simp [packPayload, List.length_flatMap, cellBytes_length, Nat.mul_comm]

/-- The tables packed for scan position `s` are those of its cell. -/
theorem payloadCell_packPayload (ts : List (PerDir Table)) (order : Nat) (hs : s < w * h) :
    payloadCell (packPayload ts order w h) true s = ts.getD (scanIndex order w h s) (PerDir.all 0) := by
  have hdrop : (packPayload ts order w h).drop (8 * s) = cellBytes (ts.getD (scanIndex order w h s) (PerDir.all 0)) ++
      ((List.range (w * h)).drop (s + 1)).flatMap fun s => cellBytes (ts.getD (scanIndex order w h s) (PerDir.all 0)) := by
    rw [packPayload, drop_flatMap _ fun _ => cellBytes_length _, List.drop_eq_getElem_cons (by simpa using hs),
      List.flatMap_cons, List.getElem_range]
  refine PerDir.ext_get fun d => ?_
  rw [payloadCell_get, payloadTable_eq_memRead, ← memRead_drop, hdrop, memRead_cellBytes, BitVec.ofNat_toNat,
    BitVec.setWidth_eq]

/-- A packed payload decodes to the tables it was packed from, in the order it was packed in. -/
theorem decodeTables_packPayload {ts : List (PerDir Table)} (order : Nat) (hts : ts.length = w * h) :
    decodeTables (packPayload ts order w h) order w h true = ts := by
  refine List.ext_getElem? fun i => ?_
  by_cases hi : i < w * h
  · obtain ⟨s, hs, rfl⟩ := exists_scanIndex_eq order hi
    rw [getElem?_decodeTables _ _ _ hs, payloadCell_packPayload ts order hs, List.getD_eq_getElem?_getD,
      List.getElem?_eq_getElem (hts ▸ hi), Option.getD_some]
  · rw [List.getElem?_eq_none (by rw [Machine.decodeTables_length]; exact not_lt.1 hi),
      List.getElem?_eq_none (hts ▸ not_lt.1 hi)]

end Scan

end Sys2Proof
end

section
/-!
PROOFS. The checks of a bitstream (43_host_commands.md R249, R250): the first that fails gives the code, and one altered payload byte
fails the last.
-/

namespace Sys2Proof.Machine

/-! ### Checks in order (R250) -/

/-- `r` is the code of the first check that fails, and `ok` where none does. -/
structure ChecksGive (checks : List (Prop × ErrorCode)) (ok r : BitstreamResult) : Prop where
  first : ∀ (i : Nat) (fails : Prop) (code : ErrorCode), checks[i]? = some (fails, code) → fails →
    (∀ (j : Nat) (fails' : Prop) (code' : ErrorCode), j < i → checks[j]? = some (fails', code') → ¬fails') → r = .fail code
  none : (∀ c ∈ checks, ¬c.1) → r = ok

theorem ChecksGive.nil (ok : BitstreamResult) : ChecksGive [] ok ok := ⟨nofun, fun _ => rfl⟩

/-- One more check in front. -/
theorem ChecksGive.cons {checks : List (Prop × ErrorCode)} {ok r : BitstreamResult} {fails : Prop} [Decidable fails]
    {code : ErrorCode} (h : ChecksGive checks ok r) :
    ChecksGive ((fails, code) :: checks) ok (if fails then .fail code else r) where
  first i fails' code' hi hfails hbefore := by
    cases i with
    | zero =>
      obtain ⟨rfl, rfl⟩ := Prod.mk.inj (Option.some.inj hi)
      exact if_pos hfails
    | succ i =>
      rw [if_neg (hbefore 0 fails code i.succ_pos rfl)]
      exact h.first i fails' code' hi hfails fun j fails'' code'' hj => hbefore (j + 1) fails'' code'' (Nat.succ_lt_succ hj)
  none hall := by
    obtain ⟨hfails, hrest⟩ := List.forall_mem_cons.1 hall
    rw [if_neg hfails, h.none hrest]

/-- The header checks of R250 in their order, on the fields of the bytes. -/
def headerChecks (p : Params) (b : Bytes) : List (Prop × ErrorCode) := [
  (b.take 4 ≠ Config.bitstreamMagic, .badMagic),
  (memRead b 4 2 ≠ 1, .badBitstreamVersion),
  (memRead b 6 2 ≠ 24, .badHeaderSize),
  (memRead b 8 2 = 0 ∨ memRead b 8 2 % 2 = 1 ∨ memRead b 10 2 = 0 ∨ memRead b 10 2 % 2 = 1, .badDimension),
  (memRead b 8 2 ≠ p.tileW ∨ memRead b 10 2 ≠ p.tileH, .dimensionMismatch),
  (2 < memRead b 12 1, .badOrder),
  (memRead b 14 4 ≠ 64 * memRead b 8 2 * memRead b 10 2 ∨ b.length ≠ 24 + memRead b 14 4 / 8, .payloadLengthMismatch),
  (memRead b 18 4 ≠ (crc32 (b.drop 24)).toNat, .crcMismatch)]

/-- The tables of a bitstream that passes every check (R251). -/
def headeredTables (p : Params) (b : Bytes) : List (PerDir Table) :=
  decodeTables (b.drop 24) (memRead b 12 1) p.tileW p.tileH (decide (memRead b 13 1 % 2 = 1))

/-! The fields of `headerFields` as the numbers in the bytes (30_encoding.md R101). -/

theorem toNat_ofNat_memRead (b : Bytes) (off : Nat) {n w : Nat} (h : 8 * n ≤ w) :
    (BitVec.ofNat w (memRead b off n)).toNat = memRead b off n := by
  refine Nat.mod_eq_of_lt ((memRead_lt b off n).trans_le ?_)
  rw [show 256 = 2 ^ 8 from rfl, ← pow_mul]
  exact Nat.pow_le_pow_right (by decide) h

section Fields

variable (b : Bytes)

theorem headerFields_width : (headerFields b).width.toNat = memRead b 8 2 := toNat_ofNat_memRead b 8 (by decide)

theorem headerFields_height : (headerFields b).height.toNat = memRead b 10 2 := toNat_ofNat_memRead b 10 (by decide)

theorem headerFields_order : (headerFields b).order.toNat = memRead b 12 1 := toNat_ofNat_memRead b 12 (by decide)

theorem headerFields_lsbFirst : (headerFields b).flags.getLsbD 0 = decide (memRead b 13 1 % 2 = 1) := by
  rw [headerFields, BitVec.getLsbD_ofNat, Nat.testBit_zero]
  rfl

theorem headerFields_payloadBits : (headerFields b).payloadBits.toNat = memRead b 14 4 :=
  toNat_ofNat_memRead b 14 (by decide)

theorem headerFields_payloadCrc_ne_iff (crc : BitVec 32) :
    (headerFields b).payloadCrc ≠ crc ↔ memRead b 18 4 ≠ crc.toNat := by
  rw [ne_eq, ← BitVec.toNat_inj, headerFields, toNat_ofNat_memRead b 18 (by decide)]

end Fields

theorem decodeHeadered_checks (p : Params) (b : Bytes) :
    ChecksGive (headerChecks p b) (.tables (headeredTables p b)) (decodeHeadered p b) := by
  unfold decodeHeadered
  simp only [headerFields_width, headerFields_height, headerFields_order, headerFields_lsbFirst, headerFields_payloadBits,
    headerFields_payloadCrc_ne_iff]
  exact .cons (.cons (.cons (.cons (.cons (.cons (.cons (.cons (.nil _))))))))

theorem decodeUpload_headerless {p : Params} {b : Bytes} (h : b.length = 8 * p.tileW * p.tileH) :
    decodeUpload p b = .tables (decodeTables b 0 p.tileW p.tileH true) := if_pos h

theorem decodeUpload_short {p : Params} {b : Bytes} (h : b.length ≠ 8 * p.tileW * p.tileH) (hshort : b.length < 24) :
    decodeUpload p b = .fail .badHeaderSize := by
  rw [decodeUpload, if_neg h, if_pos hshort]

theorem decodeUpload_headered {p : Params} {b : Bytes} (h : b.length ≠ 8 * p.tileW * p.tileH) (hlong : 24 ≤ b.length) :
    decodeUpload p b = decodeHeadered p b := by
  rw [decodeUpload, if_neg h, if_neg (not_lt.2 hlong)]

/-! ### One altered byte (R250) -/

/-- A field before an altered byte. -/
theorem memRead_set_of_le (b : Bytes) {off n i : Nat} (v : Byte) (h : off + n ≤ i) :
    memRead (b.set i v) off n = memRead b off n := by
  rw [memRead, memRead, List.take_drop, List.take_set_of_le h, ← List.take_drop]

/-- One altered byte alters the CRC-32 (30_encoding.md R104). -/
theorem crc32_set_ne {b : Bytes} {i : Nat} {v : Byte} (hi : i < b.length) (hv : b[i]? ≠ some v) :
    crc32 (b.set i v) ≠ crc32 b := by
  have hsplit : ∀ c, crc32 (b.take i ++ c :: b.drop (i + 1)) =
      (b.drop (i + 1)).foldl crcByte (crcByte ((b.take i).foldl crcByte 0xFFFFFFFF#32) c) ^^^ 0xFFFFFFFF#32 := by
    simp [crc32]
  intro he
  rw [List.set_eq_take_append_cons_drop, if_pos hi, hsplit] at he
  nth_rw 3 [← List.take_append_drop i b] at he
  rw [List.drop_eq_getElem_cons hi, hsplit] at he
  have hbyte := crcByte_byte_injective _ (foldl_crcByte_injective _ (BitVec.xor_left_inj _ |>.1 he))
  exact hv (hbyte ▸ List.getElem?_eq_getElem hi)

/-- An altered payload byte leaves every check but the last as it was, and fails that one. -/
theorem decodeHeadered_set {p : Params} {b : Bytes} {i : Nat} {v : Byte} (hok : ∀ c ∈ headerChecks p b, ¬c.1)
    (h24 : 24 ≤ i) (hi : i < b.length) (hv : b[i]? ≠ some v) : decodeHeadered p (b.set i v) = .fail .crcMismatch := by
  have hfield : ∀ off n, off + n ≤ 24 → memRead (b.set i v) off n = memRead b off n := fun off n h =>
    memRead_set_of_le b v (h.trans h24)
  have hmagic : (b.set i v).take 4 = b.take 4 := List.take_set_of_le (by omega)
  have hpayload : (b.set i v).drop 24 = (b.drop 24).set (i - 24) v := by rw [List.drop_set, if_neg (not_lt.2 h24)]
  have hcrc : crc32 ((b.drop 24).set (i - 24) v) ≠ crc32 (b.drop 24) := by
    refine crc32_set_ne (by rw [List.length_drop]; omega) ?_
    rwa [List.getElem?_drop, Nat.add_sub_cancel' h24]
  have hchecks : (headerChecks p (b.set i v)).take 7 = (headerChecks p b).take 7 := by
    simp only [headerChecks, hmagic, hfield, List.length_set, Nat.reduceAdd, Nat.reduceLeDiff, List.take]
  have hlast : memRead b 18 4 = (crc32 (b.drop 24)).toNat := not_not.1 (hok (_, .crcMismatch) (by simp [headerChecks]))
  refine (decodeHeadered_checks p (b.set i v)).first 7 _ _ rfl ?_ fun j fails code hj hget => ?_
  · rw [hfield 18 4 (by decide), hlast, hpayload]
    exact fun he => hcrc (BitVec.eq_of_toNat_eq he).symm
  · rw [← List.getElem?_take_of_lt hj, hchecks] at hget
    exact hok _ (List.mem_of_mem_take (List.mem_of_getElem? hget))

/-- Settles O5: the checks are `headerChecks`. -/
theorem bitstreamChecksInOrder : Obligations.BitstreamChecksInOrder := by
  intro p b
  refine ⟨decodeUpload_headerless, decodeUpload_short, fun hlength hlong => ?_⟩
  have hchecks : ChecksGive (headerChecks p b) (.tables (headeredTables p b)) (decodeUpload p b) :=
    decodeUpload_headered hlength hlong ▸ decodeHeadered_checks p b
  refine ⟨hchecks.first, fun hok => ⟨hchecks.none hok, fun i v h24 hi hv => ?_⟩⟩
  rw [decodeUpload_headered (by rwa [List.length_set]) (by rwa [List.length_set])]
  exact decodeHeadered_set hok h24 hi hv

end Sys2Proof.Machine
end

section
/-!
PROOFS. The configuration commands (43_host_commands.md R247 to R252, R265): LOAD_CHUNK, COMMIT, APPLY and the decode and commit of a
whole upload, of which the round trip of PACK is one.
-/

namespace Sys2Proof.Machine

variable {s : State} {seq : BitVec 16}

/-! ### LOAD_CHUNK (R247) -/

section LoadChunk

variable {sid total off : BitVec 32} {chunk : Bytes}

/-- The upload after a chunk is written to it. -/
def State.chunkUpload (s : State) (sid total off : BitVec 32) (chunk : Bytes) : Upload :=
  { s.uploadFor sid total with mem := Memory.writeBytes (s.uploadFor sid total).mem off.toNat chunk }

/-- What the checks of LOAD_CHUNK decide: the total first, then the range. -/
theorem exec_loadChunk (h : s.readyInSession) : exec (.loadChunk seq sid total off chunk) s = .next (
    if s.params.maxUpload < total.toNat then s.afterError seq .uploadTooLarge
    else if total.toNat < off.toNat + chunk.length then s.afterError seq .chunkOutOfRange
    else { s with upload := some (s.chunkUpload sid total off chunk) }) := by
  rw [exec, execLoadChunk, State.command_ready h]
  rfl

theorem State.uploadFor_sid (s : State) (sid total : BitVec 32) : (s.uploadFor sid total).sid = sid := by
  unfold State.uploadFor
  split
  · split
    · next hu => exact hu.1
    · rfl
  · rfl

/-- A chunk goes to the upload at hand where session id and total agree, and else to an empty one. -/
theorem State.uploadFor_mem_of_some {u : Upload} (hu : s.upload = some u) (sid total : BitVec 32) :
    (s.uploadFor sid total).mem = if u.sid = sid ∧ u.total = total then u.mem else [] := by
  simp only [State.uploadFor, hu]
  exact apply_ite Upload.mem ..

theorem State.uploadFor_mem_of_none (hu : s.upload = none) (sid total : BitVec 32) :
    (s.uploadFor sid total).mem = [] := by
  simp only [State.uploadFor, hu]

theorem State.read_chunkUpload (s : State) (sid total off : BitVec 32) (chunk : Bytes) (a : Nat) :
    Memory.read (s.chunkUpload sid total off chunk).mem a =
      if off.toNat ≤ a ∧ a < off.toNat + chunk.length then chunk[a - off.toNat]?
      else Memory.read (s.uploadFor sid total).mem a := Memory.read_writeBytes ..

end LoadChunk

/-- Settles O3: the bytes read back are those of `State.read_chunkUpload`. -/
theorem loadChunkWritesItsBytes : Obligations.LoadChunkWritesItsBytes := by
  intro s seq sid total off chunk h
  refine ⟨fun hbig => ?_, fun hfits hpast => ?_, fun hfits hin => ?_⟩
  · rw [exec_loadChunk h, if_pos hbig]
  · rw [exec_loadChunk h, if_neg (not_lt.2 hfits), if_pos hpast]
  · refine ⟨s.chunkUpload sid total off chunk, ?_, s.uploadFor_sid sid total, s.uploadFor_total sid total, fun a => ?_⟩
    · rw [exec_loadChunk h, if_neg (not_lt.2 hfits), if_neg (not_lt.2 hin)]
    · cases hu : s.upload with
      | none => simp only [State.read_chunkUpload, State.uploadFor_mem_of_none hu]
      | some u => simp only [State.read_chunkUpload, State.uploadFor_mem_of_some hu]

/-! ### COMMIT (R252) -/

theorem exec_commit {ts : List (PerDir Table)} (h : ts.length = cellCount s.params) :
    exec (.commit ts) s = .next (s.commitTables ts) := if_pos h

/-- COMMIT restarts an edge: its link and its sticky counters stay. -/
theorem EdgeState.restart_eq (es : EdgeState) : es.restart = { es with
    half0 := List.replicate es.half0.length 0, half1 := List.replicate es.half1.length 0,
    rxNext := 0, tx := [], substituted := false } := by
  simp [EdgeState.restart, EdgeState.clearHalves, List.map_const']

/-- Settles O8: each edge is restarted as `EdgeState.restart_eq` says. -/
theorem commitRestartsTheFabric : Obligations.CommitRestartsTheFabric := by
  intro s ts hts
  refine ⟨(s.commitTables ts).edges, ?_, fun e => (s.commitTables_edge ts e).trans (s.edge e).restart_eq⟩
  rw [exec_commit hts, State.commitTables, List.map_const']
  rfl

/-! ### APPLY (R248) -/

/-- A complete upload is committed or its failing check reported (R248). -/
theorem State.applyBitstream_tables {b : Bytes} {ts : List (PerDir Table)} (h : decodeUpload s.params b = .tables ts) :
    s.applyBitstream seq b = s.commitTables ts := by
  rw [State.applyBitstream, h]

theorem State.applyBitstream_fail {b : Bytes} {code : ErrorCode} (h : decodeUpload s.params b = .fail code) :
    s.applyBitstream seq b = s.afterError seq code := by
  rw [State.applyBitstream, h]
  rfl

theorem exec_apply_none (h : s.readyInSession) (hu : s.upload = none) :
    exec (.apply seq) s = .next (s.afterError seq .incompleteUpload) := by
  rw [exec, execApply, State.command_ready h, hu]
  rfl

theorem exec_apply_incomplete (h : s.readyInSession) {u : Upload} (hu : s.upload = some u) (hc : u.complete = false) :
    exec (.apply seq) s = .next (s.afterError seq .incompleteUpload) := by
  simp only [exec, execApply, State.command_ready h, hu, hc, Bool.false_eq_true, if_false]
  rfl

/-- A complete upload is consumed before its checks. -/
theorem exec_apply_complete (h : s.readyInSession) {u : Upload} (hu : s.upload = some u) (hc : u.complete = true) :
    exec (.apply seq) s = .next (State.applyBitstream { s with upload := none } seq u.bytes) := by
  simp only [exec, execApply, State.command_ready h, hu, hc, if_true]

theorem Upload.complete_iff_ne_none (u : Upload) :
    u.complete = true ↔ ∀ a, a < u.total.toNat → Memory.read u.mem a ≠ none := by
  simp only [Upload.complete_iff, Option.isSome_iff_ne_none]

/-- Settles O4: a byte that is missing makes the upload incomplete, and a complete one ends in `State.applyBitstream`. -/
theorem applyCommitsOrRefuses : Obligations.ApplyCommitsOrRefuses := by
  intro s seq h
  refine ⟨exec_apply_none h, fun u a hu ha hread => ?_, fun u hu hread => ?_⟩
  · refine exec_apply_incomplete h hu (Bool.eq_false_iff.2 fun hc => ?_)
    exact u.complete_iff_ne_none.1 hc a ha hread
  · have hexec : exec (.apply seq) s = _ := exec_apply_complete h hu (u.complete_iff_ne_none.2 hread)
    refine ⟨fun code hfail => ?_, fun ts htables => ⟨_, hexec, ?_⟩⟩
    · rw [hexec, State.applyBitstream_fail (s := { s with upload := none }) hfail]
    · rw [State.applyBitstream_tables (s := { s with upload := none }) htables]
      exact exec_commit (decodeUpload_length htables)

/-! ### PACK and APPLY (R265) -/

/-- The fields of an encoded header are read back. -/
theorem headerFields_encodeBitstream (h : BitstreamHeader) (p : Bytes) : headerFields (encodeBitstream h p) = h := by
  have hback := decodeBitstream_encodeBitstream h p
  unfold decodeBitstream at hback
  split at hback
  · exact (Prod.mk.inj (Option.some.inj hback)).1
  · cases hback

/-- The payload bits of an admitted tile fit the header's u32 (00_scope.md R7). -/
theorem payloadBits_lt {p : Params} (h : p.valid = true) : 64 * p.tileW * p.tileH < 2 ^ 32 := by
  simp only [Params.valid, Bool.and_eq_true, decide_eq_true_eq] at h
  have hmax : Config.maxTileCells = 2 ^ 26 - 4 := rfl
  rw [Nat.mul_assoc]
  omega

/-- A packed bitstream passes every check of its tile and decodes to the tables it was packed from. -/
theorem decodeUpload_pack {p : Params} (hp : p.valid = true) {ts : List (PerDir Table)} (hts : ts.length = cellCount p)
    {order : Nat} (ho : order ≤ 2) : decodeUpload p (pack ts order p.tileW p.tileH) = .tables ts := by
  obtain ⟨hw, hh, _, _⟩ := evenTile_of_valid hp
  have hbits := payloadBits_lt hp
  have hw16 : p.tileW < 2 ^ 16 := by omega
  have hh16 : p.tileH < 2 ^ 16 := by omega
  have hlength : (pack ts order p.tileW p.tileH).length = 24 + 8 * p.tileW * p.tileH := by
    rw [pack, Laws.encodeBitstream_length, packPayload_length, Nat.mul_assoc]
  have hword : ∀ {w n : Nat}, n < 2 ^ w → (BitVec.ofNat w n).toNat = n := Nat.mod_eq_of_lt
  have hmagic : (pack ts order p.tileW p.tileH).take 4 = Config.bitstreamMagic := rfl
  have hversion : memRead (pack ts order p.tileW p.tileH) 4 2 = 1 := rfl
  have hsize : memRead (pack ts order p.tileW p.tileH) 6 2 = 24 := rfl
  have hpayload : (pack ts order p.tileW p.tileH).drop 24 = packPayload ts order p.tileW p.tileH := rfl
  rw [decodeUpload_headered (by omega) (by omega), decodeHeadered]
  simp only [hmagic, hversion, hsize, hpayload, hlength]
  rw [pack, headerFields_encodeBitstream]
  simp only [hword hw16, hword hh16, hword hbits, hword (show order < 2 ^ 8 by omega)]
  rw [if_neg (by simp), if_neg (by simp), if_neg (by simp), if_neg (by omega), if_neg (by simp), if_neg (by omega),
    if_neg (by rw [Nat.mul_assoc, Nat.mul_assoc]; omega), if_neg (by simp)]
  exact congrArg _ (decodeTables_packPayload order hts)

/-- Settles O7: the upload passes its checks (`decodeUpload_pack`), so APPLY commits its tables. -/
theorem packedTablesComeBack : Obligations.PackedTablesComeBack := by
  intro s seq u ts order h hp ho hts hu hc hbytes
  refine ⟨_, exec_apply_complete h hu hc, ?_⟩
  have hdecode : decodeUpload s.params u.bytes = .tables ts := hbytes ▸ decodeUpload_pack hp hts ho
  rw [State.applyBitstream_tables (s := { s with upload := none }) hdecode, State.commitTables_lut]

end Sys2Proof.Machine
end

section
/-!
PROOFS. The session and seam commands (43_host_commands.md R243 to R246, R257 to R264): one equation per command where the control
port takes it, the answers without a session and by type, and what is left of a halted tile.
-/

namespace Sys2Proof

/-! ### Direction codes (00_scope.md R11) -/

theorem Dir.ofCode_code (e : Dir) : Dir.ofCode e.code = some e := by cases e <;> rfl

theorem Dir.ofCode_of_gt {n : Nat} (h : 3 < n) : Dir.ofCode n = none :=
  Option.not_isSome_iff_eq_none.1 (Dir.ofCode_isSome_iff.not.2 (Nat.not_le.2 h))

namespace Machine

variable {s : State} {seq : BitVec 16}

/-! ### Gates (R243, R244) -/

theorem State.inSession_closed (h : s.session = false) (seq : BitVec 16) (run : State → State) :
    s.inSession seq run = s.afterError seq .noSession := by
  rw [State.inSession, if_neg (Bool.eq_false_iff.1 h)]
  rfl

theorem State.command_closed (h : s.ready) (hs : s.session = false) (seq : BitVec 16) (run : State → State) :
    s.command seq run = s.afterError seq .noSession := by
  rw [State.command, State.betweenSteps_ready h, State.inSession_closed hs]

theorem State.endingCommand_open (hh : s.halted = false) (hs : s.session = true) (seq : BitVec 16) (run : State → State) :
    s.endingCommand seq run = run s := by
  rw [State.endingCommand, if_neg (Bool.eq_false_iff.1 hh), State.inSession_open hs]

theorem State.endingCommand_closed (hh : s.halted = false) (hs : s.session = false) (seq : BitVec 16)
    (run : State → State) : s.endingCommand seq run = s.afterError seq .noSession := by
  rw [State.endingCommand, if_neg (Bool.eq_false_iff.1 hh), State.inSession_closed hs]

theorem State.seamFeature_on (h : s.params.features.getLsbD 0 = true) (seq : BitVec 16) (run : State → State) :
    s.seamFeature seq run = run s := if_pos h

theorem State.seamFeature_off (h : s.params.features.getLsbD 0 = false) (seq : BitVec 16) (run : State → State) :
    s.seamFeature seq run = s.afterError seq .unknownType := by
  rw [State.seamFeature, if_neg (Bool.eq_false_iff.1 h)]
  rfl

/-- A seam command that is taken passes its three gates. -/
theorem State.seamCommand_ready (h : s.readyInSession) (hf : s.params.features.getLsbD 0 = true) (seq : BitVec 16)
    (run : State → State) : s.betweenSteps (fun s => s.seamFeature seq fun s => s.inSession seq run) = run s := by
  rw [State.betweenSteps_ready h.1, State.seamFeature_on hf, State.inSession_open h.2]

theorem State.seamCommand_closed (h : s.ready) (hf : s.params.features.getLsbD 0 = true) (hs : s.session = false)
    (seq : BitVec 16) (run : State → State) :
    s.betweenSteps (fun s => s.seamFeature seq fun s => s.inSession seq run) = s.afterError seq .noSession := by
  rw [State.betweenSteps_ready h, State.seamFeature_on hf, State.inSession_closed hs]

theorem State.seamCommand_off (h : s.ready) (hf : s.params.features.getLsbD 0 = false) (seq : BitVec 16)
    (run : State → State) :
    s.betweenSteps (fun s => s.seamFeature seq fun s => s.inSession seq run) = s.afterError seq .unknownType := by
  rw [State.betweenSteps_ready h, State.seamFeature_off hf]

/-! ### HELLO and the session (R244, R246) -/

/-- Settles O1: the version check, and the two states behind it. -/
theorem helloOpensSession : Obligations.HelloOpensSession := by
  intro s seq w h ver feat hr
  rw [exec, execHello, State.betweenSteps_ready hr]
  exact ⟨fun hver => congrArg _ (if_neg (not_not.2 hver)), fun hver => congrArg _ (if_pos hver)⟩

/-- Settles O2: each command stops at its session gate. -/
theorem commandsNeedSession : Obligations.CommandsNeedSession := by
  intro s seq h
  refine ⟨fun hs => ?_, fun w ht feat => ⟨_, (helloOpensSession s seq w ht 1 feat h).1 rfl, rfl⟩⟩
  exact ⟨fun _ _ _ _ => congrArg _ (State.command_closed h hs seq _), congrArg _ (State.command_closed h hs seq _),
    fun _ => congrArg _ (State.command_closed h hs seq _), fun _ => congrArg _ (State.command_closed h hs seq _),
    fun _ => congrArg _ (State.command_closed h hs seq _), congrArg _ (State.endingCommand_closed h.1 hs seq _),
    congrArg _ (State.endingCommand_closed h.1 hs seq _), fun hf _ =>
      ⟨congrArg _ (State.seamCommand_closed h hf hs seq _), congrArg _ (State.seamCommand_closed h hf hs seq _)⟩⟩

/-- Settles O13: with a session, neither command has a further gate. -/
theorem quitAndShutdownEndTheSession : Obligations.QuitAndShutdownEndTheSession := fun _ seq hh hs =>
  ⟨congrArg _ (State.endingCommand_open hh hs seq _), congrArg _ (State.endingCommand_open hh hs seq _)⟩

/-! ### LINK and UNLINK (R259, R260) -/

/-- LINK restarts an edge's seam state, with cleared halves (42_seam_barrier.md R222). -/
theorem State.linkEdge_eq (s : State) (e : Dir) : s.linkEdge e = s.setEdge e { s.edge e with
    linked := true, rxNext := 0, tx := [],
    half0 := List.replicate (s.edge e).half0.length 0, half1 := List.replicate (s.edge e).half1.length 0 } := by
  simp [State.linkEdge, EdgeState.clearHalves, List.map_const']

section Link

variable {edge : Byte} {e : Dir} (h : s.readyInSession) (hf : s.params.features.getLsbD 0 = true)
include h hf

theorem exec_link_badEdge (hedge : 3 < edge.toNat) : exec (.link seq edge) s = .next (s.afterError seq .badEdge) := by
  rw [exec, execLink, State.seamCommand_ready h hf, Dir.ofCode_of_gt hedge]
  rfl

/-- The checks of LINK on an edge, in order, and its effect. -/
theorem exec_link (hedge : edge.toNat = e.code) : exec (.link seq edge) s = .next (
    if hasNeighbour s.params e = false then s.afterError seq .badEdge
    else if s.t ≠ 0 then s.afterError seq .linkNotAtStart
    else if (s.edge e).linked then s.afterError seq .alreadyLinked
    else (s.linkEdge e).sendHost (.linkAck seq edge 1)) := by
  rw [exec, execLink, State.seamCommand_ready h hf, hedge, e.ofCode_code]
  rfl

theorem exec_unlink_badEdge (hedge : 3 < edge.toNat) :
    exec (.unlink seq edge) s = .next (s.afterError seq .badEdge) := by
  rw [exec, execUnlink, State.seamCommand_ready h hf, Dir.ofCode_of_gt hedge]
  rfl

theorem exec_unlink (hedge : edge.toNat = e.code) : exec (.unlink seq edge) s = .next (
    if (s.edge e).linked = false then s.afterError seq .notLinked
    else (s.unlinkEdge e).sendHost (.linkAck seq edge 0)) := by
  rw [exec, execUnlink, State.seamCommand_ready h hf, hedge, e.ofCode_code]
  rfl

end Link

/-- Settles O15: the checks of `exec_link`, one after the other. -/
theorem linkStartsAnEdge : Obligations.LinkStartsAnEdge := by
  intro s seq edge h hf
  refine ⟨exec_link_badEdge h hf, fun e hedge => ?_⟩
  rw [exec_link h hf hedge]
  refine ⟨fun hn => ?_, fun hn ht => ?_, fun hn ht hl => ?_, fun hn ht hl => ?_⟩
  · rw [if_pos hn]
  · rw [if_neg (by simp [hn]), if_pos ht]
  · rw [if_neg (by simp [hn]), if_neg (not_not.2 ht), if_pos hl]
  · rw [if_neg (by simp [hn]), if_neg (not_not.2 ht), if_neg (Bool.eq_false_iff.1 hl), State.linkEdge_eq]
    rfl

/-- Settles O16: the check of `exec_unlink`. -/
theorem unlinkFreezesAnEdge : Obligations.UnlinkFreezesAnEdge := by
  intro s seq edge h hf
  refine ⟨exec_unlink_badEdge h hf, fun e hedge => ?_⟩
  rw [exec_unlink h hf hedge]
  refine ⟨fun hl => ?_, fun hl => ?_⟩
  · rw [if_pos hl]
  · rw [if_neg (by simp [hl])]
    rfl

/-! ### Answers by type (R243, 30_encoding.md R127, R128) -/

/-- A control instruction and the type byte of its frame; a frame of no type of the opcode map is of the unknown type it names. -/
def Instr.hasType (type : Byte) : Instr → Prop
  | .hello _ _ _ _ _ => type = 0x01
  | .loadChunk _ _ _ _ _ => type = 0x02
  | .apply _ => type = 0x03
  | .step _ _ => type = 0x04
  | .setInputs _ _ => type = 0x05
  | .getOutputs _ _ => type = 0x06
  | .outputs _ _ => type = 0x07
  | .quit _ => type = 0x08
  | .shutdown _ => type = 0x09
  | .link _ _ => type = 0x0A
  | .unlink _ _ => type = 0x0B
  | .linkAck _ _ => type = 0x0C
  | .error _ _ => type = 0x7F
  | .unknownType _ type' _ => type' = type ∧ knownType type = false
  | _ => False

theorem knownType_eq_false_iff {type : Byte} :
    knownType type = false ↔ type.toNat = 0 ∨ 0x0D ≤ type.toNat ∧ type.toNat ≠ 0x7F := by
  simp only [knownType, Bool.or_eq_false_iff, Bool.and_eq_false_iff, decide_eq_false_iff_not]
  omega

theorem decodePayload_hasType {type : Byte} {p : Bytes} {i : Instr} (h : decodePayload seq type p = .instr i) :
    Instr.hasType type i := by
  unfold decodePayload at h
  dsimp only at h
  split at h
  case h_14 =>
    obtain rfl := Decoded.instr.inj h
    refine ⟨rfl, ?_⟩
    simp only [imp_false] at *
    rw [knownType_eq_false_iff]
    omega
  all_goals
    try split at h
    all_goals cases h
    all_goals exact BitVec.eq_of_toNat_eq (by assumption)

/-- Settles O17: a decoded instruction has the type of its frame (`decodePayload_hasType`). -/
theorem otherTypesAreAnswered : Obligations.OtherTypesAreAnswered := by
  refine ⟨fun s seq h => ?_, fun seq type p => ⟨fun hrange type' p' => ?_, ?_, ?_, ?_, fun hrange => ?_⟩⟩
  · have hanswer : ∀ code, s.betweenSteps (State.sendError · seq code) = s.afterError seq code := fun code =>
      State.betweenSteps_ready h _
    exact ⟨fun _ => congrArg _ (hanswer _), fun _ => congrArg _ (hanswer _), fun _ => congrArg _ (hanswer _),
      fun _ _ => congrArg _ (hanswer _), fun hf _ =>
        ⟨congrArg _ (State.seamCommand_off h hf seq _), congrArg _ (State.seamCommand_off h hf seq _)⟩⟩
  · have hne : ∀ i, ¬Instr.hasType type i → decodePayload seq type p ≠ .instr i := fun i hi hd =>
      hi (decodePayload_hasType hd)
    refine ⟨hne _ fun hi => ?_, hne _ fun hi => ?_, hne _ fun hi => ?_, hne _ fun hi => ?_⟩
    · obtain ⟨_, hunknown⟩ := hi
      rw [knownType_eq_false_iff] at hunknown
      omega
    all_goals
      obtain rfl : type = _ := hi
      revert hrange
      decide
  · rintro rfl
    rfl
  · rintro rfl
    rfl
  · rintro rfl
    rfl
  · exact decodePayload_unknownType seq p (knownType_eq_false_iff.2 (by omega))

/-! ### A halted tile (R264; log 26, log 8) -/

section Halted

variable (h : s.halted = true)
include h

theorem exec_controlStep_halted : exec .controlStep s = .next s :=
  exec_controlStep_disabled (by simp [State.controlEnabled, h])

/-- No agent step but a delivery and a launch does anything on a halted tile. -/
theorem perform_halted {ev : Event} (hlaunch : ∀ p g, ev ≠ .launch p g) (hdeliver : ∀ frame, ev ≠ .deliver frame) :
    perform ev s = .next s := by
  cases ev with
  | deliver frame => exact absurd rfl (hdeliver frame)
  | control => exact exec_controlStep_halted h
  | seam e frame => exact congrArg _ (if_pos (.inl h))
  | tick => exact exec_tick_disabled (State.tickEnabled_eq_false_iff.2 (.inl h))
  | stall => exact exec_stall_disabled (State.stallEnabled_eq_false (.inl h))
  | substitute e => exact exec_substituteHeld_disabled (State.substituteEnabled_eq_false (.inr (.inl h)))
  | resend e epoch phase => exact exec_resend_halted h e epoch phase
  | launch p g => exact absurd rfl (hlaunch p g)

end Halted

/-- Settles O14: a delivery is queued, and every other step is one of `perform_halted`. -/
theorem haltedTileOnlyQueues : Obligations.HaltedTileOnlyQueues := by
  refine fun s h => ⟨fun _ => rfl, fun ev hlaunch => ?_, fun ev hlaunch hdeliver _ => perform_halted h hlaunch hdeliver⟩
  by_cases hdeliver : ∃ frame, ev = .deliver frame
  · obtain ⟨frame, rfl⟩ := hdeliver
    exact ⟨_, rfl, h⟩
  · exact ⟨s, perform_halted h hlaunch fun frame hev => hdeliver ⟨frame, hev⟩, h⟩

end Machine

end Sys2Proof
end

section
/-!
PROOFS. The data commands (43_host_commands.md R253 to R255): the register each SET_INPUTS entry leaves, the ticks of a STEP, and the
names and values GET_OUTPUTS answers.
-/

namespace Sys2Proof.Machine

variable {s : State} {seq : BitVec 16}

/-! ### SET_INPUTS (R253) -/

theorem exec_setInputs_undeclared (h : s.readyInSession) {es : List TlvEntry} (hes : ∃ t ∈ es, s.inWidth t.name = none) :
    exec (.setInputs seq es) s = .next (s.afterError seq .undeclaredName) := by
  rw [exec, execSetInputs, State.command_ready h, if_pos]
  · rfl
  · simpa [List.any_eq_true] using hes

theorem State.writeEntries_names (s : State) (es : List TlvEntry) :
    (s.writeEntries es).ins.map Prod.fst = s.ins.map Prod.fst := by
  induction es generalizing s with
  | nil => rfl
  | cons t es ih => rw [State.writeEntries_cons, ih, State.writeInput_names]

theorem State.writeEntries_concat (s : State) (es : List TlvEntry) (t : TlvEntry) :
    s.writeEntries (es ++ [t]) = (s.writeEntries es).writeInput t.name t.value := State.writeEntries_append es [t]

/-- The last entry that names a register decides it; a register no entry names keeps its value. -/
theorem State.lookupName_writeEntries_last {n : VarName} {w : Nat} (hw : s.inWidth n = some w)
    (hn : n ∈ s.ins.map Prod.fst) (es : List TlvEntry) : lookupName n (s.writeEntries es).ins =
      ((es.filter fun t => decide (t.name = n)).getLast?.map fun t => BitVec.ofNat 64 (t.value.toNat % 2 ^ w)).or
        (lookupName n s.ins) := by
  induction es using List.reverseRecOn with
  | nil => rfl
  | append_singleton es t ih =>
    rw [State.writeEntries_concat, List.filter_append]
    by_cases ht : t.name = n
    · subst ht
      have hself := State.lookupName_writeInput_self (s := s.writeEntries es) (v := t.value)
        ((s.writeEntries_inWidth es t.name).trans hw) (s.writeEntries_names es ▸ hn)
      simpa using hself
    · have hne := State.lookupName_writeInput_ne (s := s.writeEntries es) (Ne.symm ht) t.value
      simpa [ht] using hne.trans ih

/-- Settles O10: the registers are those of `State.lookupName_writeEntries_last`. -/
theorem setInputsWritesMaskedValues : Obligations.SetInputsWritesMaskedValues := by
  intro s seq es h hins
  refine ⟨exec_setInputs_undeclared h, fun hes => ⟨(s.writeEntries es).ins, ?_, s.writeEntries_names es, fun n w hw => ?_⟩⟩
  · rw [exec_setInputs_declared h seq hes, ← State.writeEntries_frame]
  · have hn : n ∈ s.ins.map Prod.fst := hins ▸ List.mem_map_of_mem (lookupName_mem hw)
    rw [State.lookupName_writeEntries_last hw hn]
    cases (es.filter fun t => decide (t.name = n)).getLast? <;> rfl

/-! ### STEP (R254) -/

theorem exec_step (h : s.readyInSession) (ticks : BitVec 32) :
    exec (.step seq ticks) s = .next { s with pending := ticks.toNat } := by
  rw [exec, execStep, State.command_ready h]

@[simp] theorem State.iterate_tickBody_pending (s : State) (n : Nat) :
    (State.tickBody^[n] s).pending = s.pending - n := by
  induction n with
  | zero => rfl
  | succ n ih => rw [Function.iterate_succ_apply', State.tickBody_pending, ih, Nat.sub_sub]

/-- Settles O11: `n` ticks run (`runTicks_of_framesFor`), and with none pending the next does not. -/
theorem stepRunsItsTicks : Obligations.StepRunsItsTicks := by
  intro s seq ticks h
  refine ⟨exec_step h ticks, fun hf => ?_⟩
  have hrun := runTicks_of_framesFor (s := { s with pending := ticks.toNat }) h.1.1 le_rfl hf
  have hpending := State.iterate_tickBody_pending { s with pending := ticks.toNat } ticks.toNat
  rw [Nat.sub_self] at hpending
  exact ⟨_, hrun, State.iterate_tickBody_t .., hpending,
    exec_tick_disabled (State.tickEnabled_eq_false_iff.2 (.inr (.inl hpending)))⟩

/-! ### The order of names (R255) -/

/-- Bytewise order is the lexicographic order of the byte values. -/
theorem bytesLt_iff {a b : Bytes} : bytesLt a b = true ↔ a.map BitVec.toNat < b.map BitVec.toNat := by
  induction a generalizing b with
  | nil => cases b <;> simp [bytesLt]
  | cons x a ih =>
    cases b with
    | nil => simp [bytesLt]
    | cons y b => simp [bytesLt, ih, List.cons_lt_cons_iff, BitVec.toNat_inj]

/-- `a` does not come after `b`. -/
def NameLe (a b : VarName) : Prop := a.map BitVec.toNat ≤ b.map BitVec.toNat

theorem not_nameLe_iff {a b : VarName} : ¬NameLe a b ↔ bytesLt b a = true := by
  rw [NameLe, not_le, bytesLt_iff]

theorem insertName_perm (n : VarName) (l : List VarName) : (insertName n l).Perm (n :: l) := by
  induction l with
  | nil => exact .refl _
  | cons m l ih =>
    rw [insertName]
    split
    · exact (ih.cons m).trans (.swap n m l)
    · exact .refl _

theorem insertName_sorted (n : VarName) {l : List VarName} (h : l.Pairwise NameLe) : (insertName n l).Pairwise NameLe := by
  induction l with
  | nil => exact List.pairwise_singleton _ n
  | cons m l ih =>
    obtain ⟨hm, hl⟩ := List.pairwise_cons.1 h
    rw [insertName]
    split
    · next hlt =>
      have hmn : NameLe m n := (bytesLt_iff.1 hlt).le
      exact List.pairwise_cons.2 ⟨fun k hk => (List.mem_cons.1 ((insertName_perm n l).mem_iff.1 hk)).elim
        (fun he => he ▸ hmn) (hm k), ih hl⟩
    · next hge =>
      have hnm : NameLe n m := not_not.1 fun hle => hge (not_nameLe_iff.1 hle)
      exact List.pairwise_cons.2 ⟨List.forall_mem_cons.2 ⟨hnm, fun k hk => le_trans hnm (hm k hk)⟩, h⟩

theorem sortNames_perm (names : List VarName) : (sortNames names).Perm names := by
  induction names with
  | nil => exact .refl _
  | cons n names ih => exact (insertName_perm n _).trans (ih.cons n)

theorem sortNames_sorted (names : List VarName) : (sortNames names).Pairwise NameLe := by
  induction names with
  | nil => exact .nil
  | cons n names ih => exact insertName_sorted n ih

/-! ### GET_OUTPUTS (R255) -/

/-- The committed output a list of taps names for bit `i`, and 0 above its width. -/
def State.tapBit (s : State) (taps : List Tap) (i : Nat) : Bool := (taps[i]?.map fun tap => s.outAt tap.c tap.d).getD false

theorem State.tapsValue_eq (s : State) (taps : List Tap) : s.tapsValue taps = BitVec.ofNat 64
    ((List.range taps.length).foldl (fun acc i => acc + if s.tapBit taps i then 2 ^ i else 0) 0) := by
  rw [State.tapsValue, List.sum_eq_foldl, List.foldl_map]
  congr 3
  funext acc i
  rw [State.tapBit]
  cases taps[i]? <;> rfl

theorem State.tapsValue_getLsbD (s : State) {taps : List Tap} (h : taps.length ≤ 64) (i : Nat) :
    (s.tapsValue taps).getLsbD i = s.tapBit taps i := by
  rw [State.tapsValue_eq, BitVec.getLsbD_ofNat, testBit_sum_two_pow]
  by_cases hi : i < taps.length
  · simp [hi, hi.trans_le h]
  · simp [State.tapBit, List.getElem?_eq_none (not_lt.1 hi)]

/-- The two refusals of GET_OUTPUTS, in order, and its answer. -/
theorem exec_getOutputs (h : s.readyInSession) (sel : List TlvEntry) : exec (.getOutputs seq sel) s = .next (
    if (s.selectedNames sel).any fun n => (s.outTaps n).isNone then s.afterError seq .undeclaredName
    else if 65535 < ((s.selectedNames sel).map fun n => 9 + n.length).sum then s.afterError seq .replyTooLarge
    else s.sendHost (.outputs seq ((s.selectedNames sel).map s.outputEntry))) := by
  rw [exec, execGetOutputs, State.command_ready h]
  rfl

/-- Settles O12: the refusals of `exec_getOutputs`, and the bits of `State.tapsValue_getLsbD`. -/
theorem getOutputsReadsTheTaps : Obligations.GetOutputsReadsTheTaps := by
  intro s seq sel h
  have hundeclared : (s.selectedNames sel).any (fun n => (s.outTaps n).isNone) = true ↔
      ∃ n ∈ s.selectedNames sel, s.outTaps n = none := by simp
  refine ⟨s.selectedNames sel, fun hne => ?named, fun hnil => ?all, fun hn => ?undeclared, fun hn hbig => ?tooLarge,
    fun hn hfits => ⟨(s.selectedNames sel).map s.outputEntry, ?answer, ?names, fun en hen taps htaps hwidth i => ?value⟩⟩
  case named => rw [State.selectedNames, if_neg (by simpa using hne)]
  case all =>
    rw [State.selectedNames, hnil]
    exact ⟨sortNames_perm _, sortNames_sorted _⟩
  case undeclared => rw [exec_getOutputs h, if_pos (hundeclared.2 hn)]
  case tooLarge =>
    rw [exec_getOutputs h, if_neg fun hany => ?_, if_pos hbig]
    obtain ⟨n, hmem, hnone⟩ := hundeclared.1 hany
    exact hn n hmem hnone
  case answer =>
    rw [exec_getOutputs h, if_neg fun hany => ?_, if_neg (not_lt.2 hfits)]
    · rfl
    · obtain ⟨n, hmem, hnone⟩ := hundeclared.1 hany
      exact hn n hmem hnone
  case names => exact (List.map_map ..).trans (List.map_id' _)
  case value =>
    obtain ⟨n, _, rfl⟩ := List.mem_map.1 hen
    have hvalue : (s.outputEntry n).value = s.tapsValue taps := by
      rw [State.outputEntry, show s.outTaps n = some taps from htaps]
      rfl
    rw [hvalue, s.tapsValue_getLsbD hwidth, State.tapBit]
    cases taps[i]? <;> rfl

end Sys2Proof.Machine
end

section
/-!
PROOFS. The control port (43_host_commands.md R241 to R245, 60_exceptions.md R312): which payloads are well formed, which head frames
it takes and what they are answered with, and what a step does with a message placed for it (log 2, log 3).
-/

namespace Sys2Proof

/-! ### Well-formed payloads (R245) -/

/-- WELLFORMED(type, payload), type by type. -/
def PayloadFits (type : Byte) (p : Bytes) : Prop :=
  (type = 0x01 → p.length = 9) ∧
  (type = 0x02 → 16 ≤ p.length ∧ memRead p 12 4 = p.length - 16) ∧
  (type = 0x03 ∨ type = 0x08 ∨ type = 0x09 → p.length = 0) ∧
  (type = 0x04 → p.length = 4) ∧
  (type = 0x05 → p ≠ [] ∧ ∃ es, decodeTlv p = some es) ∧
  (type = 0x06 → ∃ es, decodeTlv p = some es) ∧
  (type = 0x0A ∨ type = 0x0B → p.length = 1)

/-- The types of the opcode map (30_encoding.md R127). -/
theorem knownType_cases : ∀ type : Byte, knownType type = true →
    type = 0x01 ∨ type = 0x02 ∨ type = 0x03 ∨ type = 0x04 ∨ type = 0x05 ∨ type = 0x06 ∨ type = 0x07 ∨ type = 0x08 ∨
      type = 0x09 ∨ type = 0x0A ∨ type = 0x0B ∨ type = 0x0C ∨ type = 0x7F := by decide

/-- A type outside the opcode map has no payload check. -/
theorem payloadFits_of_unknown {type : Byte} (h : knownType type = false) (p : Bytes) : PayloadFits type p := by
  refine ⟨?_, ?_, ?_, ?_, ?_, ?_, ?_⟩
  case refine_3 => rintro (rfl | rfl | rfl) <;> cases h
  case refine_7 => rintro (rfl | rfl) <;> cases h
  all_goals
    rintro rfl
    cases h

section Payload

variable {seq : BitVec 16} {type : Byte} {p : Bytes}

/-- An operand check of the decoder. -/
theorem exists_ite_eq_instr {c : Prop} [Decidable c] {j : Instr} {why : DecodeError} :
    (∃ i, (if c then Decoded.instr j else .rejected why) = .instr i) ↔ c := by
  split <;> simp [*]

/-- The list of a SET_INPUTS may not be empty, that of a GET_OUTPUTS may (30_encoding.md R118, R119). -/
theorem decodePayload_setInputs_isInstr_iff :
    (∃ i, decodePayload seq 0x05 p = .instr i) ↔ p ≠ [] ∧ ∃ es, decodeTlv p = some es := by
  have hempty : decodeTlv p = some [] ↔ p = [] := decodeTlv_eq_some_iff.trans (and_iff_right tlvNamesFit_nil)
  rw [ne_eq, ← hempty]
  cases hd : decodeTlv p with
  | none => simp [decodePayload, hd]
  | some es => cases es <;> simp [decodePayload, hd]

theorem decodePayload_getOutputs_isInstr_iff :
    (∃ i, decodePayload seq 0x06 p = .instr i) ↔ ∃ es, decodeTlv p = some es := by
  cases hd : decodeTlv p <;> simp [decodePayload, hd]

/-- A payload is read as an instruction exactly where it is well formed. -/
theorem decodePayload_isInstr_iff : (∃ i, decodePayload seq type p = .instr i) ↔ PayloadFits type p := by
  cases hk : knownType type with
  | false => exact iff_of_true ⟨_, decodePayload_unknownType seq p hk⟩ (payloadFits_of_unknown hk p)
  | true =>
    rcases knownType_cases type hk with rfl | rfl | rfl | rfl | rfl | rfl | rfl | rfl | rfl | rfl | rfl | rfl | rfl
    case inr.inr.inr.inr.inl => rw [decodePayload_setInputs_isInstr_iff]; simp [PayloadFits]
    case inr.inr.inr.inr.inr.inl => rw [decodePayload_getOutputs_isInstr_iff]; simp [PayloadFits]
    all_goals simp [decodePayload, PayloadFits, exists_ite_eq_instr]

theorem eq_malformed_of_decodePayload {why : DecodeError} (h : decodePayload seq type p = .rejected why) :
    why = .malformedPayload seq type := by
  unfold decodePayload at h
  dsimp only at h
  split at h
  all_goals
    try split at h
    all_goals cases h
    all_goals rfl

theorem decodePayload_malformed (h : ¬∃ i, decodePayload seq type p = .instr i) :
    decodePayload seq type p = .rejected (.malformedPayload seq type) := by
  cases hd : decodePayload seq type p with
  | instr i => exact absurd ⟨i, hd⟩ h
  | rejected why => rw [eq_malformed_of_decodePayload hd]

end Payload

/-! ### The decoder of the control port (R241, R242) -/

section Decode

variable {frame : Bytes}

theorem decodeControl_notFramed (h : framed frame = false) : decodeControl frame = .rejected .notFramed := by
  rw [decodeControl, if_neg (Bool.eq_false_iff.1 h)]

theorem decodeControl_badVersion (h : framed frame = true) (hv : frameVersion frame ≠ 1) :
    decodeControl frame = .rejected (.badVersion (frameSeq frame)) := by
  rw [decodeControl, if_pos h]
  exact if_neg hv

theorem decodeControl_version1 (h : framed frame = true) (hv : frameVersion frame = 1) :
    decodeControl frame = decodePayload (frameSeq frame) (frameType frame) (framePayload frame) := by
  rw [decodeControl, if_pos h]
  exact if_pos hv

end Decode

namespace Machine

variable {s : State} {frame : Bytes} {rest : List Bytes}

/-! ### CONTROL_STEP (R241) -/

theorem takenDuringStep_iff : takenDuringStep frame = true ↔
    framed frame = false ∨ frameVersion frame = 1 ∧ (frameType frame = 0x08 ∨ frameType frame = 0x09) := by
  simp only [takenDuringStep, Bool.or_eq_true, Bool.and_eq_true, Bool.not_eq_true', decide_eq_true_eq]
  rfl

theorem State.controlEnabled_iff (hq : s.q = frame :: rest) : s.controlEnabled = true ↔
    s.halted = false ∧ (s.pending = 0 ∨ takenDuringStep frame = true) := by
  simp [State.controlEnabled, hq]

/-- Every command of the control port ends in a next state. -/
theorem exec_control_next {i : Instr} (hi : Instr.isControl i = true) (s : State) : ∃ t, exec i s = .next t := by
  cases i with
  | hello | loadChunk | apply | step | setInputs | getOutputs | outputs | quit | shutdown | link | unlink | linkAck | error
  | unknownType => exact ⟨_, rfl⟩
  | _ => cases hi

/-- A version-1 QUIT or SHUTDOWN is taken while a STEP runs, any framed frame between STEPs. -/
theorem State.controlEnabled_of_framed (hh : s.halted = false) (hq : s.q = frame :: rest)
    (h : s.pending = 0 ∨ frameVersion frame = 1 ∧ (frameType frame = 0x08 ∨ frameType frame = 0x09)) :
    s.controlEnabled = true :=
  (State.controlEnabled_iff hq).2 ⟨hh, h.imp_right fun h => takenDuringStep_iff.2 (.inr h)⟩

/-- Settles O45: what CONTROL_STEP takes is `State.controlEnabled_iff`, what it does with it the decoder's answer. -/
theorem controlStepTakesTheHeadFrame : Obligations.ControlStepTakesTheHeadFrame := by
  intro s frame rest hh hq
  refine ⟨fun hf => ?unframed, fun hf => ⟨fun htaken => ?taken, fun hp hnot => ?waits⟩⟩
  case unframed =>
    have he : s.controlEnabled = true := (State.controlEnabled_iff hq).2 ⟨hh, .inr (takenDuringStep_iff.2 (.inl hf))⟩
    exact exec_controlStep_rejected he hq (decodeControl_notFramed hf)
  case taken =>
    have he := State.controlEnabled_of_framed hh hq htaken
    refine ⟨fun hv => exec_controlStep_rejected he hq (decodeControl_badVersion hf hv), fun i hi => ?_⟩
    obtain ⟨t, ht⟩ := exec_control_next (decodeControl_isControl hi) { s with q := rest }
    exact ⟨t, (exec_controlStep_instr he hq hi).trans ht, ht⟩
  case waits =>
    refine exec_controlStep_disabled (Bool.eq_false_iff.2 fun he => ?_)
    obtain ⟨_, hfree⟩ := (State.controlEnabled_iff hq).1 he
    refine hfree.elim hp fun htaken => (takenDuringStep_iff.1 htaken).elim (fun hn => ?_) hnot
    cases hf.symm.trans hn

/-- The answer to a malformed payload: the checks of type and session come before the payload's (60_exceptions.md R312). -/
theorem State.rejectFrame_malformed (s : State) (seq : BitVec 16) (type : Byte) :
    s.rejectFrame (.malformedPayload seq type) = s.afterError seq
      (if (type = 0x0A ∨ type = 0x0B) ∧ s.params.features.getLsbD 0 = false then .unknownType
       else if s.session = false ∧ type ≠ 0x01 then .noSession
       else .malformedPayload) := by
  have hsession : ∀ {type : Byte}, type ≠ 0x01 → s.inSession seq (State.sendError · seq .malformedPayload) =
      s.afterError seq (if s.session = false ∧ type ≠ 0x01 then .noSession else .malformedPayload) := fun htype => by
    cases hs : s.session with
    | false => rw [State.inSession_closed hs, if_pos ⟨rfl, htype⟩]
    | true => rw [State.inSession_open hs, if_neg (by simp)]; rfl
  unfold State.rejectFrame
  dsimp only
  split
  · next hhello =>
    subst hhello
    rw [if_neg fun h => absurd h.1 (by decide), if_neg fun h => h.2 rfl]
    rfl
  · next hhello =>
    split
    · next hseam =>
      cases hf : s.params.features.getLsbD 0 with
      | false => rw [State.seamFeature_off hf, if_pos ⟨hseam, rfl⟩]
      | true => rw [State.seamFeature_on hf, if_neg (by simp), hsession hhello]
    · next hseam => rw [if_neg fun h => hseam h.1, hsession hhello]

/-- Settles O46: `decodePayload_isInstr_iff`, and the answer of `State.rejectFrame_malformed`. -/
theorem malformedPayloadsAreAnswered : Obligations.MalformedPayloadsAreAnswered := by
  refine ⟨fun seq type p => decodePayload_isInstr_iff, fun s frame rest hh hq hf hv htaken hmalformed => ?_⟩
  have he := State.controlEnabled_of_framed hh hq (htaken.imp_right fun htype => ⟨hv, htype⟩)
  have hd := (decodeControl_version1 hf hv).trans (decodePayload_malformed hmalformed)
  rw [exec_controlStep_rejected he hq hd, State.rejectFrame_malformed]

/-! ### A message placed for the next step (log 2, log 3) -/

theorem step_of_agenda {ev : Event} {rest : List Event} (h : s.agenda = ev :: rest) :
    step s = perform ev { s with agenda := rest } := by
  rw [step, nextAgentStep, h]

/-- Where the control port moves next and may take the head frame, the step runs the instruction of the frame. -/
theorem step_control {q : List Bytes} {rest : List Event} {i : Instr} (ha : s.agenda = .control :: rest)
    (hq : s.q = frame :: q) (hh : s.halted = false) (hfree : s.pending = 0 ∨ takenDuringStep frame = true)
    (hd : decodeControl frame = .instr i) : step s = exec i { s with agenda := rest, q := q } := by
  rw [step_of_agenda ha]
  have he : State.controlEnabled { s with agenda := rest } = true := (State.controlEnabled_iff hq).2 ⟨hh, hfree⟩
  exact exec_controlStep_instr he hq hd

/-- Where a seam port moves next, the step runs the frame its bytes are read as. -/
theorem step_seam {e : Dir} {bytes : Bytes} {rest : List Event} {i : Instr} (ha : s.agenda = .seam e bytes :: rest)
    (hd : decode (.seam e) bytes = .instr i) : step s = exec i { s with agenda := rest } := by
  rw [step_of_agenda ha]
  cases hseam : decodeSeam bytes with
  | none => simp [decode, hseam] at hd
  | some f =>
    obtain rfl : .seamFrame e f = i := by simpa [decode, hseam] using hd
    rw [perform, exec_seamReceive, hseam, exec_seamFrame]

/-- Settles O48: a placed message is the head of its queue or agenda, and the step takes it off again. -/
theorem stepRunsTheDecodedInstruction : Obligations.StepRunsTheDecodedInstruction := by
  refine ⟨fun s frame q rest i => step_control, fun s e bytes rest i => step_seam, fun s i bytes h =>
    ⟨fun hd => step_control (s := s.withMessage .control bytes) rfl rfl h.1 (.inl h.2) hd,
      fun e hd => step_seam (s := s.withMessage (.seam e) bytes) rfl hd⟩⟩

/-! ### A whole upload (R248 to R252, R264; log 22) -/

variable {seq : BitVec 16} {hd : BitstreamHeader} {payload : Bytes}

theorem exec_bitstreamHeader_halted (hh : s.halted = true) : exec (.bitstreamHeader seq hd payload) s = .next s :=
  congrArg _ (if_pos hh)

theorem exec_bitstreamHeader (hh : s.halted = false) :
    exec (.bitstreamHeader seq hd payload) s = .next (s.applyBitstream seq (encodeBitstream hd payload)) :=
  congrArg _ (if_neg (Bool.eq_false_iff.1 hh))

/-- The APPLY placed for an upload finds it complete, and consumes it. -/
theorem step_withBitstream {b : Bytes} (h : s.ready) (hb : b.length < 2 ^ 32) :
    step (s.withMessage (.bitstream seq) b) =
      .next (State.applyBitstream { s with session := true, upload := none } seq b) := by
  have hdecode : decodeControl (controlFrame Config.protoVersion 0x03 seq []) = .instr (.apply seq) :=
    decodeControl_controlFrame 0x03 seq (Nat.zero_le _)
  have happly : exec (.apply seq) { s with session := true, upload := some (uploadOf b) } =
      .next (State.applyBitstream { s with session := true, upload := none } seq b) := by
    rw [exec_apply_complete (s := { s with session := true, upload := some (uploadOf b) }) ⟨h, rfl⟩ rfl
      (uploadOf_complete b hb), uploadOf_bytes b hb]
  exact (step_control (s := s.withMessage (.bitstream seq) b) rfl rfl h.1 (.inl h.2) hdecode).trans happly

/-- Settles O9: the decoded upload ends in `State.applyBitstream`, by BITSTREAM_HEADER and by APPLY (`step_withBitstream`). -/
theorem bitstreamHeaderIsAppliedWhole : Obligations.BitstreamHeaderIsAppliedWhole := by
  intro s seq hd payload
  refine ⟨exec_bitstreamHeader_halted, fun ts hh hts => ⟨_, exec_bitstreamHeader hh, ?_⟩, fun code hh hfail => ?_,
    fun h hlength => ?_⟩
  · rw [State.applyBitstream_tables hts]
    exact exec_commit (decodeUpload_length hts)
  · rw [exec_bitstreamHeader hh, State.applyBitstream_fail hfail]
  · rw [step_withBitstream h hlength]
    exact (exec_bitstreamHeader (s := { s with session := true, upload := none }) h.1).symm

end Machine

end Sys2Proof
end

section
/-!
PROOFS. The frames the block sends to its host (43_host_commands.md R263; 30_encoding.md R110, R126): each reads back as its message, and
an agent step sends at most one, an OUTPUTS being a list that fits a payload.
-/

namespace Sys2Proof

/-! ### The text of an ERROR (30_encoding.md R126) -/

theorem fitUtf8_length_le (room : Nat) (cs : List Char) : (fitUtf8 room cs).length ≤ room := by
  induction cs generalizing room with
  | nil => exact Nat.zero_le _
  | cons c cs ih =>
    rw [fitUtf8]
    split
    · next hfits =>
      rw [List.length_append]
      exact (Nat.add_le_add_left (ih _) _).trans_eq (Nat.add_sub_cancel' hfits)
    · exact Nat.zero_le _

/-- A code and a text fit a payload. -/
theorem errorPayload_length_le (code : ErrorCode) (k : Nat) :
    (leBytes 2 code.code.toNat ++ errorText k).length ≤ Config.maxPayload := by
  rw [List.length_append, leBytes_length]
  exact Nat.add_le_add_left (fitUtf8_length_le (Config.maxPayload - 2) _) 2

namespace Machine

/-! ### At most one frame a step -/

/-- From `s` to `t` at most one frame was sent to the host, and an OUTPUTS among them fits a payload. -/
def AnswersOnce (s t : State) : Prop :=
  ∃ sent : List HostMsg, t.hostOut = s.hostOut ++ sent ∧ sent.length ≤ 1 ∧
    ∀ seq es, .outputs seq es ∈ sent → entriesOk es = true

/-- Where an outcome is a next state, at most one frame was sent on the way to it. -/
def OutcomeAnswersOnce (s : State) (o : Host.Outcome State Fault Refusal) : Prop := ∀ t, o = .next t → AnswersOnce s t

theorem OutcomeAnswersOnce.next {s t : State} (h : AnswersOnce s t) : OutcomeAnswersOnce s (.next t) := by
  rintro _ ⟨⟩
  exact h

namespace AnswersOnce

variable {s t : State} {run : State → State}

theorem silent (h : t.hostOut = s.hostOut) : AnswersOnce s t := ⟨[], by rw [h, List.append_nil], Nat.zero_le _, nofun⟩

theorem one {m : HostMsg} (h : t.hostOut = s.hostOut ++ [m]) (hm : ∀ seq es, m = .outputs seq es → entriesOk es = true) :
    AnswersOnce s t :=
  ⟨[m], h, le_rfl, fun seq es hmem => hm seq es (List.mem_singleton.1 hmem).symm⟩

theorem sendError (s : State) (seq : BitVec 16) (code : ErrorCode) : AnswersOnce s (s.sendError seq code) := one rfl nofun

theorem afterReport (s : State) (code : ErrorCode) : AnswersOnce s (s.afterReport code) := by
  unfold State.afterReport
  split
  · exact sendError s 0 code
  · exact silent rfl

/-! Gates of the control port (R241 to R245). -/

theorem betweenSteps (h : AnswersOnce s (run s)) : AnswersOnce s (s.betweenSteps run) := by
  rcases s.betweenSteps_cases run with hs | ⟨_, hs⟩ <;> rw [hs]
  · exact silent rfl
  · exact h

theorem inSession (seq : BitVec 16) (h : AnswersOnce s (run s)) : AnswersOnce s (s.inSession seq run) := by
  unfold State.inSession
  split
  · exact h
  · exact sendError s seq .noSession

theorem command (seq : BitVec 16) (h : AnswersOnce s (run s)) : AnswersOnce s (s.command seq run) :=
  betweenSteps (inSession seq h)

theorem endingCommand (seq : BitVec 16) (h : AnswersOnce s (run s)) : AnswersOnce s (s.endingCommand seq run) := by
  unfold State.endingCommand
  split
  · exact silent rfl
  · exact inSession seq h

theorem seamCommand (seq : BitVec 16) (h : AnswersOnce s (run s)) :
    AnswersOnce s (s.betweenSteps fun s => s.seamFeature seq fun s => s.inSession seq run) := by
  refine betweenSteps ?_
  unfold State.seamFeature
  split
  · exact inSession seq h
  · exact sendError s seq .unknownType

end AnswersOnce

/-! ### The commands -/

variable {s : State} {seq : BitVec 16}

theorem State.applyBitstream_answersOnce (s : State) (seq : BitVec 16) (b : Bytes) :
    AnswersOnce s (s.applyBitstream seq b) := by
  unfold State.applyBitstream
  split
  · exact .silent rfl
  · exact .sendError s seq _

theorem exec_apply_answersOnce : OutcomeAnswersOnce s (exec (.apply seq) s) := by
  refine .next (.command seq ?_)
  split
  · exact .sendError s seq .incompleteUpload
  · split
    · exact State.applyBitstream_answersOnce { s with upload := none } seq _
    · exact .sendError s seq .incompleteUpload

theorem exec_setInputs_answersOnce (es : List TlvEntry) : OutcomeAnswersOnce s (exec (.setInputs seq es) s) := by
  refine .next (.command seq ?_)
  split
  · exact .sendError s seq .undeclaredName
  · obtain ⟨ins, hins⟩ := s.writeInputs_frame es
    rw [hins]
    exact .silent rfl

/-- What GET_OUTPUTS answers fits a payload: the names are declared, and the length is checked (R255). -/
theorem State.Inv.outputEntries_ok (h : s.Inv) {names : List VarName} (hdecl : ∀ n ∈ names, s.outTaps n ≠ none)
    (hfits : (names.map fun n => 9 + n.length).sum ≤ Config.maxPayload) : entriesOk (names.map s.outputEntry) = true := by
  have hnames : ∀ n ∈ names, nameOk n = true := fun n hn => by
    obtain ⟨taps, htaps⟩ := Option.ne_none_iff_exists'.1 (hdecl n hn)
    exact (h.outDecl _ (lookupName_mem htaps)).1
  rw [entriesOk, Bool.and_eq_true, List.all_eq_true, List.forall_mem_map, decide_eq_true_eq, List.map_map]
  exact ⟨hnames, hfits⟩

theorem exec_getOutputs_answersOnce (h : s.Inv) (sel : List TlvEntry) :
    OutcomeAnswersOnce s (exec (.getOutputs seq sel) s) := by
  refine .next (.command seq ?_)
  dsimp only
  split_ifs with hundeclared hbig
  · exact .sendError s seq .undeclaredName
  · exact .sendError s seq .replyTooLarge
  · refine .one rfl fun _ _ hm => ?_
    obtain ⟨_, rfl⟩ := HostMsg.outputs.inj hm
    exact h.outputEntries_ok (by simpa using hundeclared) (not_lt.1 hbig)

theorem exec_link_answersOnce (edge : Byte) : OutcomeAnswersOnce s (exec (.link seq edge) s) := by
  refine .next (.seamCommand seq ?_)
  split
  · exact .sendError s seq .badEdge
  · split_ifs
    · exact .sendError s seq .badEdge
    · exact .sendError s seq .linkNotAtStart
    · exact .sendError s seq .alreadyLinked
    · exact .one rfl nofun

theorem exec_unlink_answersOnce (edge : Byte) : OutcomeAnswersOnce s (exec (.unlink seq edge) s) := by
  refine .next (.seamCommand seq ?_)
  split
  · exact .sendError s seq .badEdge
  · split_ifs
    · exact .sendError s seq .notLinked
    · exact .one rfl nofun

/-- A command is answered with at most one frame. -/
theorem exec_control_answersOnce (h : s.Inv) {i : Instr} (hi : Instr.isControl i = true) :
    OutcomeAnswersOnce s (exec i s) := by
  cases i with
  | hello seq =>
    refine .next (.betweenSteps ?_)
    split
    · exact .sendError s seq .badVersion
    · exact .one rfl nofun
  | loadChunk seq =>
    refine .next (.command seq ?_)
    dsimp only
    split_ifs
    · exact .sendError s seq .uploadTooLarge
    · exact .sendError s seq .chunkOutOfRange
    · exact .silent rfl
  | apply seq => exact exec_apply_answersOnce
  | step seq => exact .next (.command seq (.silent rfl))
  | setInputs seq es => exact exec_setInputs_answersOnce es
  | getOutputs seq sel => exact exec_getOutputs_answersOnce h sel
  | quit seq | shutdown seq => exact .next (.endingCommand seq (.silent rfl))
  | link seq edge => exact exec_link_answersOnce edge
  | unlink seq edge => exact exec_unlink_answersOnce edge
  | outputs seq | linkAck seq | error seq => exact .next (.betweenSteps (.sendError s seq .unexpectedType))
  | unknownType seq => exact .next (.betweenSteps (.sendError s seq .unknownType))
  | _ => cases hi

theorem State.rejectFrame_answersOnce (s : State) (why : DecodeError) : AnswersOnce s (s.rejectFrame why) := by
  cases why with
  | badVersion seq => exact .sendError s seq .badVersion
  | malformedPayload seq type =>
    rw [State.rejectFrame_malformed]
    exact .sendError s seq _
  | notFramed | seamFrameCorrupt | notBitstreamHeader => exact .silent rfl

/-! ### Agent steps (60_exceptions.md R313) -/

theorem exec_controlStep_answersOnce (h : s.Inv) : OutcomeAnswersOnce s (exec .controlStep s) := by
  rcases exec_controlStep_cases s with hx | ⟨_, rest, i, _, hd, hx⟩ | ⟨_, rest, why, _, _, hx⟩ <;> rw [hx]
  · exact .next (.silent rfl)
  · exact exec_control_answersOnce (h.withQueue rest) (decodeControl_isControl hd)
  · exact .next (State.rejectFrame_answersOnce { s with q := rest } why)

theorem State.receiveParsed_answersOnce (s : State) (e : Dir) (frame : Option SeamFrame) :
    AnswersOnce s (s.receiveParsed e frame) := by
  have hfault : ∀ k, AnswersOnce s (s.seamFault e k) := fun k => by
    rw [State.seamFault_eq]
    exact .afterReport _ k.errorCode
  rcases s.receiveParsed_cases e frame with ⟨_, hs⟩ | ⟨_, _, _, hs⟩ | ⟨_, k, _, _, _, _, hs⟩ | ⟨f, _, _, _, _, hs⟩ <;> rw [hs]
  · exact .silent rfl
  · exact hfault .frameCorrupt
  · exact hfault k
  · rw [State.acceptFrame_frame]
    exact .silent rfl

theorem exec_tick_answersOnce (s : State) : OutcomeAnswersOnce s (exec .tick s) := by
  cases he : s.tickEnabled with
  | false =>
    rw [exec_tick_disabled he]
    exact .next (.silent rfl)
  | true =>
    rw [exec_tick_enabled he, State.tickBody_frame]
    exact .next (.silent rfl)

theorem exec_stall_answersOnce (s : State) : OutcomeAnswersOnce s (exec .stall s) := by
  rcases s.exec_stall_cases with ⟨_, hx⟩ | ⟨_, _, hx⟩ | ⟨_, _, hx⟩ <;> rw [hx]
  · exact .next (.silent rfl)
  · exact .next (.afterReport { s with bstat := s.blockedStatus, reported := some s.t } .missing)
  · exact .next (.silent rfl)

theorem exec_substituteHeld_answersOnce (s : State) (e : Dir) : OutcomeAnswersOnce s (exec (.substituteHeld e) s) := by
  refine .next ?_
  split
  · rw [State.substituteHeld_eq]
    exact .afterReport _ .substituted
  · exact .silent rfl

theorem exec_resend_answersOnce (s : State) (e : Dir) (epoch : BitVec 32) (phase : Byte) :
    OutcomeAnswersOnce s (exec (.resend e epoch phase) s) := by
  refine .next ?_
  split
  · exact .silent rfl
  · split <;> exact .silent rfl

/-- An agent step other than a launch sends at most one frame to the host. -/
theorem perform_answersOnce (h : s.Inv) {ev : Event} (hev : ∀ p g, ev ≠ .launch p g) :
    OutcomeAnswersOnce s (perform ev s) := by
  cases ev with
  | deliver frame => exact .next (.silent rfl)
  | control => exact exec_controlStep_answersOnce h
  | seam e frame => exact .next (s.receiveParsed_answersOnce e _)
  | tick => exact exec_tick_answersOnce s
  | stall => exact exec_stall_answersOnce s
  | substitute e => exact exec_substituteHeld_answersOnce s e
  | resend e epoch phase => exact exec_resend_answersOnce s e epoch phase
  | launch p g => exact absurd rfl (hev p g)

/-- Settles O52: each frame is a control frame whose payload fits, and `perform_answersOnce`. -/
theorem sentFramesAreWellFormed : Obligations.SentFramesAreWellFormed := by
  refine ⟨fun seq w h v feat => ?hello, fun seq es hes => ?outputs, fun seq edge linked => ?linkAck,
    fun seq code k => ⟨errorText k, ?error⟩, fun m => ?flags, fun ev s t hinv hev => perform_answersOnce hinv hev t⟩
  case hello =>
    exact (decodeControl_controlFrame 0x01 seq (by simp [Config.maxPayload])).trans (decodePayload_hello seq w h v feat)
  case outputs =>
    obtain ⟨hnames, hlength⟩ := entriesOk_iff.1 hes
    exact ⟨decodeControl_controlFrame 0x07 seq hlength, decodeTlv_eq_some_iff.2 ⟨hnames, rfl⟩⟩
  case linkAck => exact decodeControl_controlFrame 0x0C seq (by simp [Config.maxPayload])
  case error => exact decodeControl_controlFrame 0x7F seq (errorPayload_length_le code k)
  case flags => cases m <;> rfl

end Machine

end Sys2Proof
end

section
/-!
PROOFS. What a seam frame can change of a tile (60_exceptions.md R307, R316), and what no agent step takes back: the counters and the
substitution marks (R322; 10_state.md R42 to R44).
-/

namespace Sys2Proof.Machine

variable {s t : State} {e : Dir}

/-! ### A seam frame at its edge (R316) -/

/-- From `s` to `t` nothing changed but the halves, the receive count and the fault counters of edge `e`, the barrier status and the
reports sent; where a fault was counted, the halves and the receive count stayed. -/
structure State.SeamChange (e : Dir) (s t : State) : Prop where
  frame : t = { s with edges := t.edges, bstat := t.bstat, hostOut := t.hostOut, freeCount := t.freeCount }
  others : ∀ e', e' ≠ e → t.edge e' = s.edge e'
  linked : (t.edge e).linked = (s.edge e).linked
  tx : (t.edge e).tx = (s.edge e).tx
  substituted : (t.edge e).substituted = (s.edge e).substituted
  counts : (t.edge e).fcount = (s.edge e).fcount ∨ ∃ k, (t.edge e).fcount = (s.edge e).fcount.bump k ∧
    (t.edge e).half0 = (s.edge e).half0 ∧ (t.edge e).half1 = (s.edge e).half1 ∧ (t.edge e).rxNext = (s.edge e).rxNext

theorem State.SeamChange.refl (e : Dir) (s : State) : State.SeamChange e s s :=
  ⟨rfl, fun _ _ => rfl, rfl, rfl, rfl, .inl rfl⟩

/-- A rejected frame counts a fault (42_seam_barrier.md R217). -/
theorem State.seamFault_change (s : State) (e : Dir) (k : FaultKind) : State.SeamChange e s (s.seamFault e k) := by
  have hedge : (s.seamFault e k).edge e = { s.edge e with fcount := (s.edge e).fcount.bump k } := by
    rw [State.seamFault_frame]
    exact PerDir.get_set_self ..
  refine ⟨?frame, fun e' hne => ?others, ?_, ?_, ?_, .inr ⟨k, ?_⟩⟩
  case frame => rw [State.seamFault_frame]
  case others =>
    rw [State.seamFault_frame]
    exact PerDir.get_set_ne _ _ hne
  all_goals simp only [hedge, and_self]

/-- An accepted frame fills its half and is counted as received (R216). -/
theorem State.acceptFrame_change (s : State) (e : Dir) (f : SeamFrame) : State.SeamChange e s (s.acceptFrame e f) := by
  have hedge := (s.acceptFrame_edge_self e f).trans ((s.edge e).accept_frame f)
  refine ⟨?frame, fun e' hne => ?others, ?_, ?_, ?_, .inl ?_⟩
  case frame => rw [State.acceptFrame_frame]
  case others =>
    rw [State.acceptFrame_frame]
    exact PerDir.get_set_ne _ _ hne
  all_goals rw [hedge]

/-- Delivered bytes are ignored, rejected or accepted (R210). -/
theorem State.receiveParsed_change (s : State) (e : Dir) (frame : Option SeamFrame) :
    State.SeamChange e s (s.receiveParsed e frame) := by
  rcases s.receiveParsed_cases e frame with ⟨_, hs⟩ | ⟨_, _, _, hs⟩ | ⟨_, k, _, _, _, _, hs⟩ | ⟨f, _, _, _, _, hs⟩ <;> rw [hs]
  · exact .refl e s
  · exact s.seamFault_change e .frameCorrupt
  · exact s.seamFault_change e k
  · exact s.acceptFrame_change e f

/-- Settles O42: `State.receiveParsed_change`, whatever the bytes are read as. -/
theorem seamFramesChangeSeamStateOnly : Obligations.SeamFramesChangeSeamStateOnly := by
  intro s e bytes
  obtain ⟨hframe, hothers, hlinked, htx, hsubstituted, hcounts⟩ := s.receiveParsed_change e (decodeSeam bytes)
  exact ⟨_, exec_seamReceive s e bytes, hframe, hothers, hlinked, htx, hsubstituted,
    hcounts.imp_right fun ⟨_, _, hhalves⟩ => hhalves⟩

/-! ### Counters and marks that stay (R322) -/

/-- No fault count of `fc` is above that of `fc'`. -/
structure FaultCounts.Le (fc fc' : FaultCounts) : Prop where
  frameCorrupt : fc.frameCorrupt ≤ fc'.frameCorrupt
  epochMismatch : fc.epochMismatch ≤ fc'.epochMismatch
  phaseMismatch : fc.phaseMismatch ≤ fc'.phaseMismatch
  duplicate : fc.duplicate ≤ fc'.duplicate

theorem FaultCounts.Le.refl (fc : FaultCounts) : fc.Le fc := ⟨le_rfl, le_rfl, le_rfl, le_rfl⟩

theorem FaultCounts.le_bump (fc : FaultCounts) (k : FaultKind) : fc.Le (fc.bump k) := by
  cases k <;> constructor <;> simp [FaultCounts.bump]

/-- From `es` to `es'` no fault count went down, and the substitution mark stayed set unless `restart` holds. -/
structure EdgeState.Sticky (restart : Prop) (es es' : EdgeState) : Prop where
  fcount : es.fcount.Le es'.fcount
  substituted : es.substituted = true → es'.substituted = true ∨ restart

/-- From `s` to `t` the drop counter did not go down, and every edge kept its counts, and its mark unless `restart t`. -/
structure State.Sticky (restart : State → Prop) (s t : State) : Prop where
  protoDrops : s.protoDrops ≤ t.protoDrops
  edges : ∀ e, (s.edge e).Sticky (restart t) (t.edge e)

/-- Where an outcome is a next state, the counters and the marks stayed on the way to it. -/
def OutcomeSticky (restart : State → Prop) (s : State) (o : Host.Outcome State Fault Refusal) : Prop :=
  ∀ t, o = .next t → State.Sticky restart s t

theorem OutcomeSticky.next {restart : State → Prop} (h : State.Sticky restart s t) : OutcomeSticky restart s (.next t) := by
  rintro _ ⟨⟩
  exact h

theorem EdgeState.Sticky.of_eq {restart : Prop} {es es' : EdgeState} (hcount : es'.fcount = es.fcount)
    (hmark : es'.substituted = es.substituted) : es.Sticky restart es' :=
  ⟨hcount ▸ .refl _, fun h => .inl (hmark.trans h)⟩

namespace State.Sticky

variable {restart : State → Prop}

theorem kept (hdrops : t.protoDrops = s.protoDrops) (hedges : t.edges = s.edges) : State.Sticky restart s t :=
  ⟨hdrops.ge, fun e => by rw [State.edge, State.edge, hedges]; exact .of_eq rfl rfl⟩

/-- One edge is written. -/
theorem setEdge {es : EdgeState} (hdrops : t.protoDrops = s.protoDrops) (hedges : t.edges = s.edges.set e es)
    (hes : (s.edge e).Sticky (restart t) es) : State.Sticky restart s t := by
  refine ⟨hdrops.ge, fun e' => ?_⟩
  have hedge : t.edge e' = if e' = e then es else s.edge e' :=
    (congrArg (PerDir.get · e') hedges).trans (s.edges_set_edge e e' es)
  rw [hedge]
  split
  · next h => exact h ▸ hes
  · exact .of_eq rfl rfl

theorem of_seamChange (h : State.SeamChange e s t) : State.Sticky restart s t := by
  refine ⟨by rw [h.frame], fun e' => ?_⟩
  by_cases he : e' = e
  · subst he
    refine ⟨?_, fun hmark => .inl (h.substituted.trans hmark)⟩
    rcases h.counts with hcount | ⟨k, hcount, _⟩ <;> rw [hcount]
    · exact .refl _
    · exact FaultCounts.le_bump _ k
  · rw [h.others e' he]
    exact .of_eq rfl rfl

end State.Sticky

/-! ### What the gates of the control port let through (43_host_commands.md R241 to R245) -/

section Gates

variable {P : State → Prop} {run : State → State} (seq : BitVec 16)

/-- A claim about what a frame between STEPs leaves: it holds of the tile itself, and of what the frame runs. -/
theorem State.betweenSteps_of (hself : P s) (hrun : P (run s)) : P (s.betweenSteps run) := by
  rcases s.betweenSteps_cases run with hs | ⟨_, hs⟩ <;> rw [hs]
  · exact hself
  · exact hrun

variable (herror : ∀ code, P (s.sendError seq code))
include herror

theorem State.inSession_of (hrun : P (run s)) : P (s.inSession seq run) := by
  unfold State.inSession
  split
  · exact hrun
  · exact herror .noSession

theorem State.command_of (hself : P s) (hrun : P (run s)) : P (s.command seq run) :=
  State.betweenSteps_of hself (State.inSession_of seq herror hrun)

theorem State.endingCommand_of (hself : P s) (hrun : P (run s)) : P (s.endingCommand seq run) := by
  unfold State.endingCommand
  split
  · exact hself
  · exact State.inSession_of seq herror hrun

theorem State.seamCommand_of (hself : P s) (hrun : P (run s)) :
    P (s.betweenSteps fun s => s.seamFeature seq fun s => s.inSession seq run) := by
  refine State.betweenSteps_of hself ?_
  unfold State.seamFeature
  split
  · exact State.inSession_of seq herror hrun
  · exact herror .unknownType

end Gates

/-! ### The commands -/

/-- The tick count stands at 0, where COMMIT puts it (43_host_commands.md R252). -/
def State.AtStart (s : State) : Prop := s.t = 0

section Commands

variable {restart : State → Prop} (s) (seq : BitVec 16)

theorem State.Sticky.refl : State.Sticky restart s s := .kept rfl rfl

theorem State.Sticky.sendError (code : ErrorCode) : State.Sticky restart s (s.sendError seq code) := .kept rfl rfl

theorem State.commitTables_sticky (ts : List (PerDir Table)) : State.Sticky State.AtStart s (s.commitTables ts) := by
  refine ⟨le_rfl, fun e => ?_⟩
  rw [State.commitTables_edge, EdgeState.restart_eq]
  exact ⟨.refl _, fun _ => .inr rfl⟩

theorem exec_apply_sticky : OutcomeSticky State.AtStart s (exec (.apply seq) s) := by
  refine .next (State.command_of seq (.sendError s seq) (.refl s) ?_)
  split
  · exact .sendError s seq .incompleteUpload
  · split
    · unfold State.applyBitstream
      split
      · next ts _ => exact { State.commitTables_sticky { s with upload := none } ts with }
      · exact .kept rfl rfl
    · exact .sendError s seq .incompleteUpload

theorem exec_setInputs_sticky (es : List TlvEntry) : OutcomeSticky restart s (exec (.setInputs seq es) s) := by
  refine .next (State.command_of seq (.sendError s seq) (.refl s) ?_)
  split
  · exact .sendError s seq .undeclaredName
  · obtain ⟨ins, hins⟩ := s.writeInputs_frame es
    rw [hins]
    exact .kept rfl rfl

/-- LINK and UNLINK leave the counters and the mark of their edge (42_seam_barrier.md R222, R224). -/
theorem exec_link_sticky (edge : Byte) : OutcomeSticky restart s (exec (.link seq edge) s) := by
  refine .next (State.seamCommand_of seq (.sendError s seq) (.refl s) ?_)
  split
  · exact .sendError s seq .badEdge
  · split_ifs
    · exact .sendError s seq .badEdge
    · exact .sendError s seq .linkNotAtStart
    · exact .sendError s seq .alreadyLinked
    · exact .setEdge rfl rfl (.of_eq rfl rfl)

theorem exec_unlink_sticky (edge : Byte) : OutcomeSticky restart s (exec (.unlink seq edge) s) := by
  refine .next (State.seamCommand_of seq (.sendError s seq) (.refl s) ?_)
  split
  · exact .sendError s seq .badEdge
  · split_ifs
    · exact .sendError s seq .notLinked
    · exact .setEdge rfl rfl (.of_eq rfl rfl)

/-- Of the commands, APPLY clears the marks, and with them the tick count. -/
theorem exec_control_sticky {i : Instr} (hi : Instr.isControl i = true) : OutcomeSticky State.AtStart s (exec i s) := by
  cases i with
  | apply seq => exact exec_apply_sticky s seq
  | setInputs seq es => exact exec_setInputs_sticky s seq es
  | link seq edge => exact exec_link_sticky s seq edge
  | unlink seq edge => exact exec_unlink_sticky s seq edge
  | hello => exact .next (State.betweenSteps_of (.refl s) (by split <;> exact .kept rfl rfl))
  | loadChunk seq =>
    exact .next (State.command_of seq (.sendError s seq) (.refl s) (by dsimp only; split_ifs <;> exact .kept rfl rfl))
  | getOutputs seq =>
    exact .next (State.command_of seq (.sendError s seq) (.refl s) (by dsimp only; split_ifs <;> exact .kept rfl rfl))
  | step seq => exact .next (State.command_of seq (.sendError s seq) (.refl s) (.kept rfl rfl))
  | quit seq | shutdown seq => exact .next (State.endingCommand_of seq (.sendError s seq) (.refl s) (.kept rfl rfl))
  | outputs seq | linkAck seq | error seq | unknownType seq =>
    exact .next (State.betweenSteps_of (.refl s) (.sendError s seq _))
  | _ => cases hi

theorem State.rejectFrame_sticky (why : DecodeError) : State.Sticky restart s (s.rejectFrame why) := by
  cases why with
  | notFramed => exact ⟨Nat.le_succ _, fun _ => .of_eq rfl rfl⟩
  | badVersion seq => exact .sendError s seq .badVersion
  | malformedPayload seq type =>
    rw [State.rejectFrame_malformed]
    exact .sendError s seq _
  | seamFrameCorrupt | notBitstreamHeader => exact .refl s

end Commands

/-! ### Agent steps -/

section Steps

variable {restart : State → Prop} (s)

theorem exec_controlStep_sticky : OutcomeSticky State.AtStart s (exec .controlStep s) := by
  rcases exec_controlStep_cases s with hx | ⟨_, rest, i, _, hd, hx⟩ | ⟨_, rest, why, _, _, hx⟩ <;> rw [hx]
  · exact .next (.refl s)
  · exact fun t ht => { exec_control_sticky { s with q := rest } (decodeControl_isControl hd) t ht with }
  · exact .next { State.rejectFrame_sticky { s with q := rest } why with }

theorem exec_tick_sticky : OutcomeSticky restart s (exec .tick s) := by
  cases he : s.tickEnabled with
  | false =>
    rw [exec_tick_disabled he]
    exact .next (.refl s)
  | true =>
    rw [exec_tick_enabled he]
    refine .next ⟨by rw [State.tickBody_frame], fun e => ?_⟩
    rw [State.tickBody_edge]
    split <;> exact .of_eq rfl rfl

@[simp] theorem State.afterReport_protoDrops (code : ErrorCode) : (s.afterReport code).protoDrops = s.protoDrops := by
  rw [← State.report_eq, State.report_frame]

@[simp] theorem State.afterReport_edges (code : ErrorCode) : (s.afterReport code).edges = s.edges := by
  rw [← State.report_eq, State.report_edges]

theorem exec_stall_sticky : OutcomeSticky restart s (exec .stall s) := by
  rcases s.exec_stall_cases with ⟨_, hx⟩ | ⟨_, _, hx⟩ | ⟨_, _, hx⟩ <;> rw [hx]
  · exact .next (.refl s)
  · exact .next (.kept (State.afterReport_protoDrops _ _) (State.afterReport_edges _ _))
  · exact .next (.kept rfl rfl)

/-- A substitution sets the mark of its edge (R221). -/
theorem exec_substituteHeld_sticky (e : Dir) : OutcomeSticky restart s (exec (.substituteHeld e) s) := by
  refine .next ?_
  split
  · rw [State.substituteHeld_eq]
    exact .setEdge (State.afterReport_protoDrops _ _) (State.afterReport_edges _ _) ⟨.refl _, fun _ => .inl rfl⟩
  · exact .refl s

theorem exec_resend_sticky (e : Dir) (epoch : BitVec 32) (phase : Byte) :
    OutcomeSticky restart s (exec (.resend e epoch phase) s) := by
  refine .next ?_
  split
  · exact .refl s
  · split <;> exact .kept rfl rfl

/-- Of the agent steps other than a launch, only the control port clears a mark. -/
theorem perform_sticky {ev : Event} (hev : ∀ p g, ev ≠ .launch p g) :
    OutcomeSticky (fun t => ev = .control ∧ t.AtStart) s (perform ev s) := by
  cases ev with
  | deliver frame => exact .next (.kept rfl rfl)
  | control =>
    intro t ht
    obtain ⟨hdrops, hedges⟩ := exec_controlStep_sticky s t ht
    exact ⟨hdrops, fun e => ⟨(hedges e).fcount, fun h => ((hedges e).substituted h).imp_right (⟨rfl, ·⟩)⟩⟩
  | seam e frame => exact .next (.of_seamChange (s.receiveParsed_change e _))
  | tick => exact exec_tick_sticky s
  | stall => exact exec_stall_sticky s
  | substitute e => exact exec_substituteHeld_sticky s e
  | resend e epoch phase => exact exec_resend_sticky s e epoch phase
  | launch p g => exact absurd rfl (hev p g)

end Steps

/-- Settles O58: `perform_sticky`, with the counters of an edge written out. -/
theorem countersOnlyIncrease : Obligations.CountersOnlyIncrease := by
  intro ev s t hev h
  obtain ⟨hdrops, hedges⟩ := perform_sticky s hev t h
  refine ⟨hdrops, fun e => ?_⟩
  obtain ⟨⟨hcorrupt, hepoch, hphase, hduplicate⟩, hmark⟩ := hedges e
  exact ⟨hcorrupt, hepoch, hphase, hduplicate, hmark⟩

end Sys2Proof.Machine
end

section
/-!
PROOFS. Which instructions can stop and on which operands (log 14, log 16, log 17), that no agent step but a launch does
(60_exceptions.md R300), and the tile that no step changes (R321).
-/

namespace Sys2Proof.Machine

variable {s : State}

/-! ### Instructions that can stop -/

/-- An operation that runs only on operands of its domain: a next state on them, its fault on every other. -/
theorem guard_cases (ok : Prop) [Decidable ok] (t : State) (f : Fault) :
    (∃ u, (if ok then .next t else .fault f : Host.Outcome State Fault Refusal) = .next u) ∨
      (¬ok ∧ (if ok then .next t else .fault f : Host.Outcome State Fault Refusal) = .fault f) := by
  by_cases h : ok
  · exact .inl ⟨t, if_pos h⟩
  · exact .inr ⟨h, if_neg h⟩

/-- SEAM_READ has a value for the coordinates that have a lane (42_seam_barrier.md R203, R220). -/
theorem exec_seamRead_cases (s : State) (c : Coord) (out : Dir) :
    (∃ t, exec (.seamRead c out) s = .next t) ∨
      (seamLane s.params c = none ∧ exec (.seamRead c out) s = .fault .notSeamCoordinate) := by
  cases hl : seamLane s.params c with
  | none => exact .inr ⟨rfl, by simp [exec, execSeamRead, State.seamValue, hl]⟩
  | some lane => exact .inl ⟨_, by simp only [exec, execSeamRead, State.seamValue, hl]; rfl⟩

/-- A launch takes place, or is refused for its parameters or with the code of a check (70_reset_and_hazards.md R340). -/
theorem exec_reset_cases (p : Params) (g : Program) (s : State) :
    (∃ t, exec (.reset p g) s = .next t) ∨
      (exec (.reset p g) s = .refused .parametersOutOfRange ∨ ∃ code, exec (.reset p g) s = .refused (.launchRefused code)) := by
  by_cases hok : (p.valid && g.keysDistinct) = true
  · obtain ⟨hp, hkeys⟩ := Bool.and_eq_true_iff.1 hok
    cases hadm : admissionError p g with
    | none => exact .inl ⟨_, exec_reset_admitted hp hkeys hadm s⟩
    | some code => exact .inr (.inr ⟨code, exec_reset_refused hp hkeys hadm s⟩)
  · exact .inr (.inl (if_neg hok))

/-- CONTROL_STEP ends in a next state: a control frame decodes to a command (43_host_commands.md R241). -/
theorem exec_controlStep_next (s : State) : ∃ t, exec .controlStep s = .next t := by
  rcases exec_controlStep_cases s with hx | ⟨_, rest, i, _, hd, hx⟩ | ⟨_, rest, why, _, _, hx⟩
  · exact ⟨s, hx⟩
  · rw [hx]
    exact exec_control_next (decodeControl_isControl hd) _
  · exact ⟨_, hx⟩

/-- Settles O51: a command never stops; of the other instructions five have a domain, and RESET has its checks. -/
theorem onlyOutOfDomainOperandsStop : Obligations.OnlyOutOfDomainOperandsStop := by
  intro i s
  cases hi : Instr.isControl i with
  | true => exact .inl (exec_control_next hi s)
  | false =>
    cases i with
    | index c =>
      exact (guard_cases _ _ _).imp_right fun ⟨hc, hx⟩ => .inl ⟨c, .inl rfl, Bool.eq_false_iff.2 hc, hx⟩
    | evalCell c =>
      exact (guard_cases _ _ _).imp_right fun ⟨hc, hx⟩ => .inl ⟨c, .inr rfl, Bool.eq_false_iff.2 hc, hx⟩
    | resolve src =>
      exact (guard_cases _ _ _).imp_right fun ⟨hsrc, hx⟩ => .inr (.inl ⟨src, rfl, Bool.eq_false_iff.2 hsrc, hx⟩)
    | seamRead c out =>
      exact (exec_seamRead_cases s c out).imp_right fun ⟨hl, hx⟩ => .inr (.inr (.inl ⟨c, out, rfl, hl, hx⟩))
    | commit ts =>
      exact (guard_cases _ _ _).imp_right fun ⟨hts, hx⟩ => .inr (.inr (.inr (.inl ⟨ts, rfl, hts, hx⟩)))
    | reset p g => exact (exec_reset_cases p g s).imp_right fun hx => .inr (.inr (.inr (.inr ⟨p, g, rfl, hx⟩)))
    | controlStep => exact .inl (exec_controlStep_next s)
    | seamFrame | bitstreamHeader | evalLut | tick | cycle | emitFrame | resend | seamReceive | stall | substituteHeld =>
      exact .inl ⟨_, rfl⟩
    | _ => cases hi

/-- Settles O50: of the agent steps, only a launch runs an instruction that can stop. -/
theorem agentStepsComplete : Obligations.AgentStepsComplete := by
  intro ev s
  cases ev with
  | launch p g => exact (exec_reset_cases p g s).imp_right fun hx => ⟨p, g, rfl, hx⟩
  | control => exact .inl (exec_controlStep_next s)
  | deliver | seam | tick | stall | substitute | resend => exact .inl ⟨_, rfl⟩

/-! ### The idle tile (R321) -/

theorem State.ownEvent_eq_none (htick : s.tickEnabled = false) (hstall : s.stallEnabled = false)
    (hcontrol : s.controlEnabled = false) : s.ownEvent = none := by
  simp [State.ownEvent, htick, hstall, hcontrol]

theorem step_idle (ha : s.agenda = []) (hown : s.ownEvent = none) : step s = .next s := by
  simp only [step, nextAgentStep, ha, hown]

/-- With ticks to run, the control port takes no framed head frame but a QUIT or SHUTDOWN (43_host_commands.md R241). -/
theorem State.controlEnabled_eq_false (hp : 0 < s.pending) (hhead : ∀ frame rest, s.q = frame :: rest →
    framed frame = true ∧ (frameVersion frame ≠ 1 ∨ frameType frame ≠ 0x08 ∧ frameType frame ≠ 0x09)) :
    s.controlEnabled = false := by
  cases hq : s.q with
  | nil => simp [State.controlEnabled, hq]
  | cons frame rest =>
    obtain ⟨hframed, hnot⟩ := hhead frame rest hq
    rw [← Bool.not_eq_true, State.controlEnabled_iff hq, takenDuringStep_iff, hframed]
    rintro ⟨_, hzero | hf | ⟨hv, htype⟩⟩
    · exact hp.ne' hzero
    · cases hf
    · exact hnot.elim (absurd hv) fun ⟨h8, h9⟩ => htype.elim h8 h9

/-- Settles O49: in both kinds of idle tile none of TICK, STALL and CONTROL_STEP is enabled. -/
theorem idleTileIsUnchanged : Obligations.IdleTileIsUnchanged := by
  intro s ha hidle
  refine step_idle ha ?_
  rcases hidle with ⟨hp, hq⟩ | ⟨hp, hmissing, hreported, hblocked, hhead⟩
  · exact State.ownEvent_eq_none (State.tickEnabled_eq_false_iff.2 (.inr (.inl hp)))
      (State.stallEnabled_eq_false (.inr (.inl hp))) (by simp [State.controlEnabled, hq])
  · exact State.ownEvent_eq_none (State.tickEnabled_eq_false_iff.2 (.inr (.inr hmissing)))
      (State.stallEnabled_eq_false (.inr (.inr (.inr ⟨hreported, hblocked⟩)))) (State.controlEnabled_eq_false hp hhead)

end Sys2Proof.Machine
end

section
/-!
PROOFS. The state a launch starts from, element by element (70_reset_and_hazards.md R340, R341): the configuration an admitted
Program gives, read by coordinate and by name, and the elements that start at 0; and the state after reset as the default launch.
-/

namespace Sys2Proof

/-! ### What a Program gives a cell it lists -/

/-- Records listed once each are found at their coordinates (40_lut_eval.md R152). -/
theorem Program.recordAt_of_mem {g : Program} (hnodup : (g.cells.map CellRecord.coord).Nodup) {r : CellRecord}
    (hr : r ∈ g.cells) : g.recordAt r.coord = some r := by
  have hsome : (g.recordAt r.coord).isSome = true := List.find?_isSome.2 ⟨r, hr, decide_eq_true rfl⟩
  obtain ⟨found, hfound⟩ := Option.isSome_iff_exists.1 hsome
  have hcoord : found.coord = r.coord := by simpa using List.find?_some hfound
  rw [hfound, List.inj_on_of_nodup_map hnodup (List.mem_of_find?_eq_some hfound) hr hcoord]

theorem CellRecord.sources_get (r : CellRecord) (d : Dir) : r.sources.get d = (r.pins.getD d.code .null).resolved := by
  cases d <;> rfl

theorem CellRecord.tables_get (r : CellRecord) (d : Dir) : r.tables.get d = BitVec.ofInt 16 (r.outputs.getD d.code 0) := by
  cases d <;> rfl

/-- A table in the range of R150 keeps its number as a 16-bit word. -/
theorem toNat_ofInt_table {v : Int} (hlow : 0 ≤ v) (hhigh : v ≤ 65535) : (BitVec.ofInt 16 v).toNat = v.toNat := by
  rw [BitVec.toNat_ofInt]
  omega

/-- A record that passes its check gives each output the table it lists (10_state.md R23; R150). -/
theorem CellRecord.tables_get_toNat {r : CellRecord} (hshape : r.shapeOk = true) (d : Dir) :
    (r.tables.get d).toNat = (r.outputs.getD d.code 0).toNat := by
  obtain ⟨hlength, hrange, _⟩ := CellRecord.shapeOk_iff.1 hshape
  have hcode : d.code < r.outputs.length := by rw [hlength]; cases d <;> decide
  obtain ⟨hlow, hhigh⟩ := hrange _ (List.getElem_mem hcode)
  rw [CellRecord.tables_get, List.getD_eq_getElem _ _ hcode, toNat_ofInt_table hlow hhigh]

namespace Machine

/-! ### The configuration of a launch -/

section Configuration

variable {p : Params} {g : Program} (drawn : Nat) (agenda : List Event)

theorem initialState_lutAt_of_mem (hadm : admissionError p g = none) {r : CellRecord} (hr : r ∈ g.cells) (d : Dir) :
    ((initialState p g drawn agenda).lutAt r.coord d).toNat = (r.outputs.getD d.code 0).toNat := by
  obtain ⟨_, hrecords, _, hregion, _⟩ := admissionError_eq_none_iff.1 hadm
  obtain ⟨hnodup, _, hshapes⟩ := recordsError_eq_none_iff.1 hrecords
  rw [initialState_lutAt g drawn agenda (hregion r hr), Program.recordAt_of_mem hnodup hr]
  exact CellRecord.tables_get_toNat (hshapes r hr).2 d

theorem initialState_srcAt_of_mem (hadm : admissionError p g = none) {r : CellRecord} (hr : r ∈ g.cells) (d : Dir) :
    (initialState p g drawn agenda).srcAt r.coord d = (r.pins.getD d.code .null).resolved := by
  obtain ⟨_, hrecords, _, hregion, _⟩ := admissionError_eq_none_iff.1 hadm
  obtain ⟨hnodup, _⟩ := recordsError_eq_none_iff.1 hrecords
  rw [initialState_srcAt g drawn agenda (hregion r hr), Program.recordAt_of_mem hnodup hr]
  exact r.sources_get d

theorem initialState_of_not_listed {c : Coord} (hc : inRegion p c = true) (habsent : ∀ r ∈ g.cells, r.coord ≠ c) (d : Dir) :
    (initialState p g drawn agenda).lutAt c d = 0 ∧ (initialState p g drawn agenda).srcAt c d = .unwired := by
  rw [initialState_lutAt g drawn agenda hc, initialState_srcAt g drawn agenda hc, Program.recordAt_eq_none habsent]
  exact ⟨PerDir.get_all .., PerDir.get_all ..⟩

theorem initialState_outDecl_names (p : Params) (g : Program) :
    (initialState p g drawn agenda).outDecl.map Prod.fst = g.outputBits.map Prod.fst :=
  List.map_map

/-- Output names being keys (30_encoding.md R95), each has the taps it lists (10_state.md R26). -/
theorem initialState_outTaps (p : Params) (hkeys : g.keysDistinct = true) {n : VarName} {taps : List RawTap}
    (hmem : (n, taps) ∈ g.outputBits) :
    (initialState p g drawn agenda).outTaps n = some (taps.map RawTap.tap) := by
  obtain ⟨_, hout⟩ := Bool.and_eq_true_iff.1 hkeys
  have hnodup : ((initialState p g drawn agenda).outDecl.map Prod.fst).Nodup := by
    rw [initialState_outDecl_names]
    exact of_decide_eq_true hout
  exact (lookupName_eq_some_iff hnodup).2 (List.mem_map_of_mem hmem)

end Configuration

/-! ### The elements that start at 0 -/

theorem initialState_inValue (p : Params) (g : Program) (drawn : Nat) (agenda : List Event) (n : VarName) :
    (initialState p g drawn agenda).inValue n = 0 := by
  simp only [State.inValue, initialState, lookupName_map_const]
  cases lookupName n g.inputBits <;> rfl

theorem initialState_edge (p : Params) (g : Program) (drawn : Nat) (agenda : List Event) (e : Dir) :
    (initialState p g drawn agenda).edge e = EdgeState.initial (laneCount p e) := by
  cases e <;> rfl

/-- Both halves of an edge at reset hold 0 on every lane, and read as 0 beyond the last. -/
theorem EdgeState.initial_half (lanes q k : Nat) : (EdgeState.initial lanes).half q k = 0 := by
  have hlist : (EdgeState.initial lanes).halfList q = List.replicate lanes 0 := ite_self _
  rw [EdgeState.half, hlist, List.getD_eq_getElem?_getD, List.getElem?_getD_replicate_default_eq]

/-! ### The statements -/

/-- Settles O53: RESET of an admitted Program starts `initialState`, whose elements are read one by one. -/
theorem resetSetsEveryElement : Obligations.ResetSetsEveryElement := by
  intro p g s hp hkeys hadm
  refine ⟨_, exec_reset_admitted hp hkeys hadm s, rfl, fun r hr => initialState_lutAt_of_mem _ _ hadm hr,
    fun r hr => initialState_srcAt_of_mem _ _ hadm hr, fun c hc habsent => initialState_of_not_listed _ _ hc habsent,
    rfl, initialState_outDecl_names .., fun d hd => initialState_outTaps _ _ p hkeys hd, rfl, rfl,
    initialState_inValue p g _ _, rfl, rfl, rfl, rfl, rfl, rfl, fun e => ?edge, rfl, rfl, rfl⟩
  case edge =>
    rw [initialState_edge]
    exact ⟨rfl, EdgeState.initial_half _, rfl, rfl, rfl, rfl⟩

/-- The state after reset is the launch of log 1. -/
theorem State.reset_eq_initialState : State.reset = initialState Config.resetParams Config.resetProgram 0 [] := by
  decide

/-- Settles O56: the parameters and the Program of log 1 pass their checks, so their launch meets the invariant. -/
theorem resetMeetsTheInvariant : Obligations.ResetMeetsTheInvariant := by
  unfold Obligations.ResetMeetsTheInvariant
  rw [State.reset_eq_initialState]
  exact initialState_inv (by decide) (by decide) (by decide) 0 []

end Machine

end Sys2Proof
end

section
/-!
PROOFS. Five words of 95_test_vectors.md. Each is, CRC included, what the encoder writes for a well-formed instruction, so the
decoder reads that instruction from it.
-/

namespace Sys2Proof

/-- Settles O60: the word is computed on the encoder's side, and `readsBack_of_wf` reads it back. -/
theorem decoderReadsTheSpecsWords : Obligations.DecoderReadsTheSpecsWords := by
  refine ⟨readsBack_of_wf rfl ⟨_, _⟩ ?step, readsBack_of_wf rfl ⟨_, _⟩ ?hello, readsBack_of_wf rfl ⟨_, _⟩ ?link,
    readsBack_of_wf rfl ⟨_, _⟩ ?unknownType, readsBack_of_wf rfl ⟨_, _⟩ ?seamFrame⟩
  case step | hello | link | unknownType | seamFrame => decide +kernel

end Sys2Proof
end
